-- ==== Sys2Proof/Word.lean ====
section
/-!
DEFINITION. The machine's words: a byte (8 bits), a register or command word (32 bits) and a
ByteBuffer, a finite sequence of bytes (00_scope.md R8, R9; 10_state.md R13).
-/

namespace Sys2Proof

/-- A byte is 8 bits (R8). -/
abbrev Byte := BitVec 8

/-- A register, the checksum accumulator and a command word are 32 bits (R8, R16, R42). -/
abbrev Word := BitVec 32

/-- A ByteBuffer is a finite sequence of bytes with a known length (R9, R13); byte `i` of the
buffer is element `i` of the list, and its length is the list's. -/
abbrev ByteBuffer := List Byte

end Sys2Proof
end

