-- ==== Sys2Proof/Config.lean ====
section
/-!
DEFINITION. The two implementation parameters, CAP and BUFMAX (00_scope.md R5, R7, R8;
10_state.md section 7). The spec leaves no instruction result open, so there is no free value.
-/

namespace Sys2Proof

/-- `Config = { CAP : nat, BUFMAX : nat }` (10_state.md section 7). Every statement about every
state holds for every value of both. -/
structure Config where
  /-- CAP, the source's BankCapacity: the greatest length of one bank (R5). -/
  cap : Nat
  /-- BUFMAX, the greatest length of a buffer in a slot (R7): an open parameter. -/
  bufmax : Nat
  deriving DecidableEq, Repr

/-- The constraints of R5 and R7: `1 ≤ CAP ≤ BUFMAX < 2^32`. -/
def Config.wf (c : Config) : Bool :=
  decide (1 ≤ c.cap) && decide (c.cap ≤ c.bufmax) && decide (c.bufmax < 2 ^ 32)

/-- The hardware's CAP, 8 MiB (R5), with the BUFMAX that R7 recommends, `2 × CAP`.
DESIGN CHOICE (log 1): R7 leaves BUFMAX open. Unsafe for a claim about this one configuration
that leans on its BUFMAX. -/
def Config.hardware : Config := { cap := 8388608, bufmax := 16777216 }

end Sys2Proof
end

