-- ==== Sys2Proof/Syntax.lean ====
section
/-!
DEFINITION. The twelve commands, one constructor per row of spec/opcode_table.json
(30_encoding.md R43). A command has no operand field: operands are in fixed slots and registers
(R44).
-/

namespace Sys2Proof

/-- The closed set of twelve operations (R2, R43), in opcode order. -/
inductive Instr where
  /-- `checksum(seed, data)` (R53). -/
  | cksum
  /-- `equalSplit(buf)` (R57). -/
  | esplit
  /-- `byteDeinterleave(buf)` (R58). -/
  | bdeint
  /-- `wordDeinterleave(buf)` (R59). -/
  | wdeint
  /-- `byteFlip(buf)` (R60). -/
  | bflip
  /-- `byteInterleave2(A, B)` (R61). -/
  | bint2
  /-- `byteInterleave4(A, B, C, D)` (R62). -/
  | bint4
  /-- `swapHalves(buf)` (R63). -/
  | swaph
  /-- Bank concatenation of A and B (R66). -/
  | bcat
  /-- `wordMerge(A, B)` (R70). -/
  | wmerge
  /-- `overlay(base, patch, size)` (R72). -/
  | patch
  /-- `pad(buf, targetSize, fillByte)` (R74). -/
  | pad
  deriving DecidableEq, Repr

end Sys2Proof
end

