-- ==== Sys2Proof/Machine/Action.lean ====
section
/-!
DEFINITION. The names on the hardware's interface: slots, address spaces, registers, the error
taxonomy, the host's four actions, the platform's reset, and what an action returns
(10_state.md R14 to R16; 20_memory.md R26, R36 to R39; 60_exceptions.md R76; 70_reset_and_hazards.md
R92).
-/

namespace Sys2Proof.Machine

/-- The four source slots (R14). -/
inductive SrcSlot where
  | s0 | s1 | s2 | s3
  deriving DecidableEq, Repr

/-- The two destination slots (R15). -/
inductive DstSlot where
  | d0 | d1
  deriving DecidableEq, Repr

/-- The six byte-addressed spaces of R26: the spaces of `MemRead` and `MemWrite` (R9). -/
inductive Space where
  | src (n : SrcSlot)
  | dst (n : DstSlot)
  deriving DecidableEq, Repr

/-- The six registers of R16. No other number exists: the host has no action for one. -/
inductive RegName where
  | cmd | status | seed | size | fill | crc
  deriving DecidableEq, Repr

/-- The number that selects each register on the host's register port: the numbering that the hardware
fixes (R16, R28). -/
def regNumber : RegName → Nat
  | .cmd => 0
  | .status => 1
  | .seed => 2
  | .size => 3
  | .fill => 4
  | .crc => 5

/-- The register that a number selects; "register numbers 6 and above do not exist" (R16, R26). -/
def regOfNumber : Nat → Option RegName
  | 0 => some .cmd
  | 1 => some .status
  | 2 => some .seed
  | 3 => some .size
  | 4 => some .fill
  | 5 => some .crc
  | _ => none

/-- The six errors of R76, in code order. -/
inductive CmdError where
  /-- R78: a command reads a source slot that holds `none`. -/
  | inputNotFound
  /-- R79: host-side only; no command of this model raises it. -/
  | ioFailure
  /-- R83: a result would be longer than BUFMAX. -/
  | allocationFailure
  /-- R80: a length relation or divisibility fails. -/
  | sizeMismatch
  /-- R81: SIZE, or BCAT's total, is out of range. -/
  | sizeOutOfRange
  /-- R82: the word written to CMD is not one of the twelve. -/
  | illegalCommand
  deriving DecidableEq, Repr

/-- The host's four kinds of action (R36 to R39). -/
inductive HostAction where
  /-- `LOAD(n, b)` (R36). -/
  | load (n : SrcSlot) (b : ByteBuffer)
  /-- `SAVE(n)` (R37). -/
  | save (n : DstSlot)
  /-- `WR(r, v)` (R38); a write to CMD runs a command. -/
  | wr (r : RegName) (v : Word)
  /-- `RD(r)` (R39). -/
  | rd (r : RegName)
  deriving DecidableEq, Repr

/-- What happens between two states: an action of the host, or a reset by the platform (R92). -/
inductive Event where
  | action (a : HostAction)
  | reset
  deriving DecidableEq, Repr

/-- What an action gives back to the host: a whole buffer (SAVE, R37) or a 32-bit word (RD, R39). -/
inductive Reply where
  | buffer (b : ByteBuffer)
  | word (w : Word)
  deriving DecidableEq, Repr

end Sys2Proof.Machine
end

