-- ==== Sys2Proof/Machine/State.lean ====
section
/-!
DEFINITION. Everything the hardware holds between commands (10_state.md R13 to R25 and section 7),
its value after reset (R25, R92), and the reasons a step can stop.
-/

namespace Sys2Proof.Machine

/-- The six buffer stores (R14, R15, R26): each holds a ByteBuffer or `none` (R13). They are separate
storage, so no operand can overlap a result (R99). -/
structure Memory where
  s0 : Option ByteBuffer
  s1 : Option ByteBuffer
  s2 : Option ByteBuffer
  s3 : Option ByteBuffer
  d0 : Option ByteBuffer
  d1 : Option ByteBuffer
  deriving DecidableEq, Repr

/-- The machine. `mem` to `fill` are the spec's architectural state (10_state.md section 7); `cfg`,
`pending` and `replies` are the model's own fields (logs 1, 3, 4). -/
structure State where
  /-- The source and destination slots (R14, R15). -/
  mem : Memory
  /-- CRC, register 5: a checksum, or no value (R22). -/
  crc : Option Word
  /-- STATUS.CODE, bits 3:0 of register 1 (R18). -/
  code : BitVec 4
  /-- SEED, register 2 (R19). -/
  seed : Word
  /-- SIZE, register 3 (R20). -/
  size : Word
  /-- FILL, register 4: the 8 bits it keeps (R21). -/
  fill : Byte
  /-- CAP and BUFMAX, fixed for a machine: no step changes them (R5, R7; log 1). -/
  cfg : Config
  /-- The host actions and resets still to come, oldest first: the finite list of R100 (log 3). -/
  pending : List Event
  /-- What SAVE and RD have returned so far, oldest first (R37, R39; log 4). -/
  replies : List Reply
  deriving DecidableEq, Repr

/-- Why the machine stops with a fault: never. An error of a command is a code in STATUS and the
machine goes on (R86, R88), so no behaviour of the spec is a fault and the type has no constructor
(log 8). Safe: nothing can be proved of a fault that cannot occur. -/
inductive Fault where
  deriving DecidableEq, Repr

/-- Why the model has no next state: an action that the rules say the model refuses (R100). -/
inductive Refusal where
  /-- An instruction that has no meaning yet: raised by no arm of `exec`. Safe. -/
  | notModelled (mnemonic : String)
  /-- `LOAD` of a buffer longer than BUFMAX: "the action does not exist for it" (R36, U15). Raised by
  the LOAD action. Safe. -/
  | loadTooLong (n : SrcSlot)
  /-- `SAVE` of a destination slot that holds `none`: "a model refuses it" (R37, U14). Raised by the
  SAVE action. Safe. -/
  | saveEmptySlot (n : DstSlot)
  /-- `RD(CRC)` while CRCV = 0: "refused by the model" (R39, R22, U13). Raised by the RD action. Safe:
  the hardware returns an unspecified word and goes on. -/
  | readCrcNoValue
  deriving DecidableEq, Repr

/-- The three outcomes of a step of this machine. -/
abbrev StepOutcome := Host.Outcome State Fault Refusal

/-- All six slots `none` (R25). -/
def Memory.empty : Memory :=
  { s0 := none, s1 := none, s2 := none, s3 := none, d0 := none, d1 := none }

/-- The state after reset of a machine with parameters `c` (R25, R92), with no host action to come
and nothing returned yet. -/
def State.resetWith (c : Config) : State :=
  { mem := Memory.empty, crc := none, code := 0#4, seed := 0#32, size := 0#32, fill := 0#8,
    cfg := c, pending := [], replies := [] }

/-- The hardware right after reset (R25, R92): every value is the one R25 gives. The configuration
is R5's CAP with R7's recommended BUFMAX (log 1). -/
def State.reset : State := State.resetWith Config.hardware

end Sys2Proof.Machine
end

