-- ==== Sys2Proof/WellFormed.lean ====
section
/-!
DEFINITION. When a term of the model stands for something the hardware has: instructions, buffers,
memory, host actions. (Config.wf, beside Config, is the check of the parameters.)
-/

namespace Sys2Proof

/-- A command has no operand field (R42, R44), so every instruction is well formed (log 7). One line
per constructor, so that a new one cannot slip past. -/
def Instr.wf : Instr → Bool
  | .cksum => true
  | .esplit => true
  | .bdeint => true
  | .wdeint => true
  | .bflip => true
  | .bint2 => true
  | .bint4 => true
  | .swaph => true
  | .bcat => true
  | .wmerge => true
  | .patch => true
  | .pad => true

namespace Machine

/-- A slot holds `none` or a buffer of at most BUFMAX bytes (R13). -/
def slotWf (bufmax : Nat) : Option ByteBuffer → Bool
  | none => true
  | some b => decide (b.length ≤ bufmax)

/-- The form memory is always in: "every buffer in a slot has `len ≤ BUFMAX`" (10_state.md section 7).
A buffer is the list of its bytes, so equal memories are equal data with no further condition. -/
def Memory.wf (bufmax : Nat) (m : Memory) : Bool :=
  slotWf bufmax m.s0 && slotWf bufmax m.s1 && slotWf bufmax m.s2 && slotWf bufmax m.s3 &&
    slotWf bufmax m.d0 && slotWf bufmax m.d1

/-- An action the host has: `LOAD` is an action only for a buffer of at most BUFMAX bytes (R36); the
other three are actions whatever their arguments. -/
def HostAction.wf (c : Config) : HostAction → Bool
  | .load _ b => decide (b.length ≤ c.bufmax)
  | .save _ => true
  | .wr _ _ => true
  | .rd _ => true

/-- An event is well formed when its action is; a reset always is (R92). -/
def Event.wf (c : Config) : Event → Bool
  | .action a => a.wf c
  | .reset => true

end Machine

end Sys2Proof
end

