-- ==== Sys2Proof/Decode.lean ====
section
/-!
DEFINITION. The command word (30_encoding.md R42, R43, R45): the decoder, total on every 32-bit word
and rejecting by name, the encoder, and the mnemonics of R43.
-/

namespace Sys2Proof

/-- Why a word is not a command (R45). Both raise IllegalCommand (R82). -/
inductive DecodeError where
  /-- Bits 31:8 are not 0. -/
  | zeroFieldNotZero
  /-- OPC is 0x00 or in 0x0D .. 0xFF. -/
  | opcodeUnassigned
  deriving DecidableEq, Repr

/-- Field ZERO, bits 31:8 (R42). -/
def zeroField (w : Word) : BitVec 24 := w.extractLsb' 8 24

/-- Field OPC, bits 7:0 (R42). -/
def opcField (w : Word) : Byte := w.extractLsb' 0 8

/-- The opcode map of R43. -/
def decodeOpcode (opc : Byte) : Option Instr :=
  match opc.toNat with
  | 0x01 => some .cksum
  | 0x02 => some .esplit
  | 0x03 => some .bdeint
  | 0x04 => some .wdeint
  | 0x05 => some .bflip
  | 0x06 => some .bint2
  | 0x07 => some .bint4
  | 0x08 => some .swaph
  | 0x09 => some .bcat
  | 0x0A => some .wmerge
  | 0x0B => some .patch
  | 0x0C => some .pad
  | _ => none

/-- Decode a command word: ZERO must be 0 and OPC assigned (R42, R45, step 1 of R47). -/
def decode (w : Word) : Except DecodeError Instr :=
  if zeroField w = 0#24 then
    match decodeOpcode (opcField w) with
    | some i => .ok i
    | none => .error .opcodeUnassigned
  else .error .zeroFieldNotZero

/-- The opcode of each command (R43). -/
def opcode : Instr → Byte
  | .cksum => 0x01#8
  | .esplit => 0x02#8
  | .bdeint => 0x03#8
  | .wdeint => 0x04#8
  | .bflip => 0x05#8
  | .bint2 => 0x06#8
  | .bint4 => 0x07#8
  | .swaph => 0x08#8
  | .bcat => 0x09#8
  | .wmerge => 0x0A#8
  | .patch => 0x0B#8
  | .pad => 0x0C#8

/-- The command word: the opcode zero-extended (R42). -/
def encode (i : Instr) : Word := (opcode i).setWidth 32

/-- The mnemonic of each command (R43, R49). -/
def mnemonic : Instr → String
  | .cksum => "CKSUM"
  | .esplit => "ESPLIT"
  | .bdeint => "BDEINT"
  | .wdeint => "WDEINT"
  | .bflip => "BFLIP"
  | .bint2 => "BINT2"
  | .bint4 => "BINT4"
  | .swaph => "SWAPH"
  | .bcat => "BCAT"
  | .wmerge => "WMERGE"
  | .patch => "PATCH"
  | .pad => "PAD"

/-- The 32-bit word whose low `nbits` bits are those of `w` and whose other bits are 0. A command is
one 32-bit word written whole (R33, R42), so there is no byte order to lay out (R31). -/
def tableWord (nbits w : Nat) : Word := BitVec.ofNat 32 (w % 2 ^ nbits)

/-- The instruction the decoder reads from the low `nbits` bits of `w` (log 11). -/
def decodeTableWord (nbits w : Nat) : Option Instr :=
  match decode (tableWord nbits w) with
  | .ok i => some i
  | .error _ => none

end Sys2Proof
end

