-- ==== Sys2Proof/Machine/Flags.lean ====
section
/-!
DEFINITION. The error codes (60_exceptions.md R76) and the STATUS register, the only status a command
leaves (10_state.md R12, R18).
-/

namespace Sys2Proof.Machine

/-- CODE of each error (R76). -/
def errorCode : CmdError → BitVec 4
  | .inputNotFound => 1#4
  | .ioFailure => 2#4
  | .allocationFailure => 3#4
  | .sizeMismatch => 4#4
  | .sizeOutOfRange => 5#4
  | .illegalCommand => 6#4

/-- CODE 0, OK (R77). -/
def codeOk : BitVec 4 := 0#4

/-- A CODE that can occur: "0 and 1 and 3 to 6" (R18); 2 and 7 to 15 are never written (R76, R79). -/
def codeLegal (c : BitVec 4) : Bool :=
  decide (c = 0#4) || decide (c = 1#4) || decide (c = 3#4) || decide (c = 4#4) || decide (c = 5#4) ||
    decide (c = 6#4)

/-- D0V, bit 8 of STATUS: D0 holds a buffer (R18). -/
def d0v (s : State) : Bool := s.mem.d0.isSome

/-- D1V, bit 9 of STATUS: D1 holds a buffer (R18). -/
def d1v (s : State) : Bool := s.mem.d1.isSome

/-- CRCV, bit 10 of STATUS: CRC holds a value (R18). -/
def crcv (s : State) : Bool := s.crc.isSome

/-- STATUS as the host reads it (R18): CODE in bits 3:0, D0V, D1V and CRCV in bits 8, 9 and 10, every
other bit 0. -/
def statusWord (s : State) : Word :=
  0#21 ++ BitVec.ofBool (crcv s) ++ BitVec.ofBool (d1v s) ++ BitVec.ofBool (d0v s) ++ 0#4 ++ s.code

/-- "The number of banks BCAT produced is `D0V + D1V`" (R18). -/
def bankCount (s : State) : Nat := (d0v s).toNat + (d1v s).toNat

end Sys2Proof.Machine
end

