-- ==== Sys2Proof/Machine/Ops.lean ====
section
/-!
DEFINITION. The named operations over slots, buffers and registers, and the two ends of every
command: `raise` (60_exceptions.md R86, the machine's one form of taking an exception) and `commit`
(30_encoding.md R48). There is no return from an error to model: "There is no return-from-error
command" (R88); the machine is ready for the next action as it stands.
-/

namespace Sys2Proof.Machine

/-! ### Buffers (R9, R26) -/

/-- `b[i..j)`, the bytes at indices `i .. j-1`; R9 requires `i ≤ j ≤ len(b)`. -/
def slice (b : ByteBuffer) (i j : Nat) : ByteBuffer := (b.take j).drop i

/-- `rep(v, n)`, the byte `v` repeated `n` times (R9). -/
def rep (v : Byte) (n : Nat) : ByteBuffer := List.replicate n v

/-- `MemWrite` into a buffer: the bytes `v` at indices `addr .. addr + len(v) - 1` (R9), for
`addr + len(v) ≤ len(b)`; every other byte stays. -/
def memWrite (b : ByteBuffer) (addr : Nat) (v : ByteBuffer) : ByteBuffer :=
  b.take addr ++ v ++ b.drop (addr + v.length)

/-- The (address, byte) pairs of a buffer, addresses 0 to `len - 1` in rising order (R26): an index at
or past `len` does not exist, so it is not listed (log 2). -/
def cellsFrom (base : Nat) : ByteBuffer → List Host.Cell
  | [] => []
  | x :: rest => (base, x) :: cellsFrom (base + 1) rest

/-! ### Slots (R14, R15, R26) -/

/-- What source slot `n` holds (R14). -/
def srcSlot (m : Memory) : SrcSlot → Option ByteBuffer
  | .s0 => m.s0
  | .s1 => m.s1
  | .s2 => m.s2
  | .s3 => m.s3

/-- What destination slot `n` holds (R15). -/
def dstSlot (m : Memory) : DstSlot → Option ByteBuffer
  | .d0 => m.d0
  | .d1 => m.d1

/-- What the slot of a byte-addressed space holds (R26). -/
def spaceSlot (m : Memory) : Space → Option ByteBuffer
  | .src n => srcSlot m n
  | .dst n => dstSlot m n

/-- `S[n] <- v` (R9). -/
def setSrc (m : Memory) (n : SrcSlot) (v : Option ByteBuffer) : Memory :=
  match n with
  | .s0 => { m with s0 := v }
  | .s1 => { m with s1 := v }
  | .s2 => { m with s2 := v }
  | .s3 => { m with s3 := v }

/-- `MemRead(space, addr, 1)`: one byte, or nothing where the slot holds `none` or `addr` is at or past
the buffer's length (R9, R26). -/
def readByte (m : Memory) (sp : Space) (addr : Nat) : Option Byte :=
  match spaceSlot m sp with
  | none => none
  | some b => b[addr]?

/-- `MemRead(space, addr, n)`: `n` bytes in increasing index order, where `addr + n ≤ len` (R9). -/
def memRead (m : Memory) (sp : Space) (addr n : Nat) : Option ByteBuffer :=
  match spaceSlot m sp with
  | none => none
  | some b => if addr + n ≤ b.length then some (slice b addr (addr + n)) else none

/-- The source slots a successful command read are emptied (R48: `S[n] <- none`). -/
def consume (m : Memory) : List SrcSlot → Memory
  | [] => m
  | n :: rest => consume (setSrc m n none) rest

/-! ### The end of a command -/

/-- What a successful command leaves in D0, D1 and CRC (the last three columns of R44). -/
structure Results where
  d0 : Option ByteBuffer := none
  d1 : Option ByteBuffer := none
  crc : Option Word := none
  deriving DecidableEq, Repr

/-- `raise E` does exactly this: CODE gets the error's code and nothing else changes (R86). -/
def raise (e : CmdError) (s : State) : State := { s with code := errorCode e }

/-- The commit of a successful command that read the slots `reads` (R48), all at once. SEED, SIZE, FILL
and the other source slots keep their values. -/
def commit (reads : List SrcSlot) (r : Results) (s : State) : State :=
  { s with
    mem := { consume s.mem reads with d0 := r.d0, d1 := r.d1 }
    crc := r.crc
    code := codeOk }

/-- The last step of R47: raise the first check that failed, or commit. -/
def finish (reads : List SrcSlot) (s : State) : Except CmdError Results → StepOutcome
  | .error e => .next (raise e s)
  | .ok r => .next (commit reads r s)

/-- One check of R47: raise `e` unless `p` holds. -/
def require (p : Bool) (e : CmdError) : Except CmdError Unit :=
  if p then .ok () else .error e

/-- Step 4 of R47: a result of `n` bytes must not exceed BUFMAX (R83). -/
def allocate (s : State) (n : Nat) : Except CmdError Unit :=
  require (decide (n ≤ s.cfg.bufmax)) .allocationFailure

/-! ### Reset and the host's side -/

/-- The platform's reset (R92): from any state to the reset state of the same machine. What the host
has yet to do and what it has been given are the host's, and stay (log 5). -/
def resetHardware (s : State) : State :=
  { State.resetWith s.cfg with pending := s.pending, replies := s.replies }

/-- Hand `r` to the host: no state of the hardware changes (R33, R37, R39). -/
def reply (r : Reply) (s : State) : State := { s with replies := s.replies ++ [r] }

end Sys2Proof.Machine
end

