-- ==== Sys2Proof/Machine/Operands.lean ====
section
/-!
DEFINITION. Operand binding (30_encoding.md R44): where each command finds its operands. No command
has an immediate; an operand is the buffer in a fixed source slot or the value of a fixed register.
-/

namespace Sys2Proof.Machine

/-- The source slots each command reads, in the order they are checked (R44, step 2 of R47). -/
def sourceSlots : Instr → List SrcSlot
  | .cksum => [.s0]
  | .esplit => [.s0]
  | .bdeint => [.s0]
  | .wdeint => [.s0]
  | .bflip => [.s0]
  | .bint2 => [.s0, .s1]
  | .bint4 => [.s0, .s1, .s2, .s3]
  | .swaph => [.s0]
  | .bcat => [.s0, .s1]
  | .wmerge => [.s0, .s1]
  | .patch => [.s0, .s1]
  | .pad => [.s0]

/-- The buffer in source slot `n`; `none` raises InputNotFound (R78). A buffer of length 0 is an
operand like any other (R13). -/
def operand (s : State) (n : SrcSlot) : Except CmdError ByteBuffer :=
  match srcSlot s.mem n with
  | some b => .ok b
  | none => .error .inputNotFound

/-- `seed = reg.SEED`, of CKSUM (R19, R53). -/
def seedOperand (s : State) : Word := s.seed

/-- `size` of PATCH and `targetSize` of PAD: SIZE as an unsigned number (R20). Lengths are compared
with it as natural numbers (R23). -/
def sizeOperand (s : State) : Nat := s.size.toNat

/-- `fillByte = reg.FILL`, of PAD (R21, R74). -/
def fillOperand (s : State) : Byte := s.fill

end Sys2Proof.Machine
end

