-- ==== Sys2Proof/Machine/Bank.lean ====
section
/-!
DEFINITION. The bank splitter with capacity check (42_bank_concat.md R66 to R68): BCAT.
-/

namespace Sys2Proof.Machine

/-- The two cases of R66: bank0, and bank1 where there is one. Every difference is taken where the
case has shown it is no underflow (R23). -/
def bankSplit (cap : Nat) (a b : ByteBuffer) : ByteBuffer × Option ByteBuffer :=
  let c := a.length + b.length
  if a.length > cap then
    (slice a 0 cap, some (slice a cap a.length ++ b))
  else if c ≤ cap then
    (a ++ b, none)
  else
    let overflow := c - cap
    (a ++ slice b 0 (b.length - overflow), some (slice b (b.length - overflow) b.length))

/-- The one formula of R68: the concatenation cut at index CAP. -/
def bankCut (cap : Nat) (a b : ByteBuffer) : ByteBuffer × Option ByteBuffer :=
  let t := a ++ b
  if t.length ≤ cap then (t, none) else (slice t 0 cap, some (slice t cap t.length))

/-- The checks of BCAT in their order, then its results (R66, R47). -/
def bcatResults (s : State) : Except CmdError Results := do
  let a ← operand s .s0
  let b ← operand s .s1
  require (decide (a.length + b.length ≤ 2 * s.cfg.cap)) .sizeOutOfRange
  return { d0 := some (bankSplit s.cfg.cap a b).1, d1 := (bankSplit s.cfg.cap a b).2 }

/-- BCAT (R66), with the capacity check of R67: more than two banks' bytes raise SizeOutOfRange. -/
def execBcat (s : State) : StepOutcome :=
  finish (sourceSlots .bcat) s (bcatResults s)

end Sys2Proof.Machine
end

