-- ==== Sys2Proof/Machine/Checksum.lean ====
section
/-!
DEFINITION. The checksum accumulator: TABLE (40_checksum.md R51), the update (R52) and CKSUM (R53).
Non-reflected, MSB-first, no final XOR (R31, R55).
-/

namespace Sys2Proof.Machine

/-- The polynomial (R8, R51). -/
def polynomial : Word := 0x04C11DB7#32

/-- One round of R51: if bit 31 is set, shift left and XOR the polynomial, else shift left; the shift
is within 32 bits. -/
def tableRound (a : Word) : Word :=
  if a.getLsbD 31 then (a <<< 1) ^^^ polynomial else a <<< 1

/-- `n` rounds of R51. -/
def tableRounds : Nat → Word → Word
  | 0, a => a
  | n + 1, a => tableRounds n (tableRound a)

/-- `TABLE[i]` (R51): `i` as the top byte of the accumulator, then eight rounds. A constant of the
hardware, not state (R24). -/
def tableEntry (i : Byte) : Word := tableRounds 8 (i.setWidth 32 <<< 24)

/-- `crc_step(accum, byte)` (R52). -/
def crcStep (accum : Word) (byte : Byte) : Word :=
  (accum <<< 8) ^^^ tableEntry ((accum >>> 24).setWidth 8 ^^^ byte)

/-- `crc_update(accum, data)` (R52): each byte once, in increasing index order. -/
def crcUpdate (accum : Word) : ByteBuffer → Word
  | [] => accum
  | x :: rest => crcUpdate (crcStep accum x) rest

/-- The checks of CKSUM in their order, then its results (R53, R47). -/
def cksumResults (s : State) : Except CmdError Results := do
  let data ← operand s .s0
  return { crc := some (crcUpdate (seedOperand s) data) }

/-- CKSUM (R53): CRC gets the checksum of S0 from SEED; both destination slots are emptied. -/
def execCksum (s : State) : StepOutcome :=
  finish (sourceSlots .cksum) s (cksumResults s)

end Sys2Proof.Machine
end

