-- ==== Sys2Proof/Machine/Interleave.lean ====
section
/-!
DEFINITION. The interleave/de-interleave engine (41_interleave.md R56 to R64): ESPLIT, BDEINT, WDEINT,
BFLIP, BINT2, BINT4, SWAPH, and the two functions of the stride view. A length relation is an error
only where R56's table says so; elsewhere the odd last byte is dropped.
-/

namespace Sys2Proof.Machine

/-- `half = floor(len(buf) / 2)` (R56). -/
def half (buf : ByteBuffer) : Nat := buf.length / 2

/-- `equalSplit` (R57): the first and the second half; an odd last byte is in neither. -/
def equalSplit (buf : ByteBuffer) : ByteBuffer × ByteBuffer :=
  (slice buf 0 (half buf), slice buf (half buf) (2 * half buf))

/-- `byteDeinterleave` (R58): the bytes at even indices and the bytes at odd indices; an odd last byte
goes to neither. -/
def byteDeinterleave : ByteBuffer → ByteBuffer × ByteBuffer
  | x :: y :: rest => (x :: (byteDeinterleave rest).1, y :: (byteDeinterleave rest).2)
  | _ => ([], [])

/-- `wordDeinterleave` (R59): of each 4-byte group the first word and the second word, each word's
bytes in order (R30). The length is a multiple of 4 when a command calls it (log 12). -/
def wordDeinterleave : ByteBuffer → ByteBuffer × ByteBuffer
  | w :: x :: y :: z :: rest =>
    (w :: x :: (wordDeinterleave rest).1, y :: z :: (wordDeinterleave rest).2)
  | _ => ([], [])

/-- `byteFlip` (R60): the two bytes of every pair swapped. The length is even when a command calls it
(log 12). -/
def byteFlip : ByteBuffer → ByteBuffer
  | x :: y :: rest => y :: x :: byteFlip rest
  | _ => []

/-- `byteInterleave2` (R61). The lengths are equal when a command calls it (log 12). -/
def byteInterleave2 : ByteBuffer → ByteBuffer → ByteBuffer
  | x :: as, y :: bs => x :: y :: byteInterleave2 as bs
  | _, _ => []

/-- `byteInterleave4` (R62). The lengths are equal when a command calls it (log 12). -/
def byteInterleave4 : ByteBuffer → ByteBuffer → ByteBuffer → ByteBuffer → ByteBuffer
  | w :: as, x :: bs, y :: cs, z :: ds => w :: x :: y :: z :: byteInterleave4 as bs cs ds
  | _, _, _, _ => []

/-- `swapHalves` (R63): the second half, then the first half; an odd last byte is dropped. -/
def swapHalves (buf : ByteBuffer) : ByteBuffer :=
  slice buf (half buf) (2 * half buf) ++ slice buf 0 (half buf)

/-! ### The stride view (R64) -/

/-- The units of `n` bytes at indices `off`, `off + step`, … (`count` of them), joined. -/
def gather (buf : ByteBuffer) (n step : Nat) : Nat → Nat → ByteBuffer
  | 0, _ => []
  | count + 1, off => slice buf off (off + n) ++ gather buf n step count (off + step)

/-- `deint(buf, s)` (R64), for stride `s` in 1, 2 (R6). -/
def deint (buf : ByteBuffer) (s : Nat) : ByteBuffer × ByteBuffer :=
  (gather buf s (2 * s) (buf.length / (2 * s)) 0, gather buf s (2 * s) (buf.length / (2 * s)) s)

/-- The `count` units of `s` bytes of `a` and `b` from index `off`, alternating. -/
def weave (a b : ByteBuffer) (s : Nat) : Nat → Nat → ByteBuffer
  | 0, _ => []
  | count + 1, off =>
    slice a off (off + s) ++ slice b off (off + s) ++ weave a b s count (off + s)

/-- `inter(A, B, s)` (R64), for `len(A) = len(B)` a multiple of `s`. -/
def inter (a b : ByteBuffer) (s : Nat) : ByteBuffer := weave a b s (a.length / s) 0

/-! ### The commands -/

/-- The checks of ESPLIT in their order, then its results (R57, R47). -/
def esplitResults (s : State) : Except CmdError Results := do
  let buf ← operand s .s0
  return { d0 := some (equalSplit buf).1, d1 := some (equalSplit buf).2 }

/-- ESPLIT (R57). -/
def execEsplit (s : State) : StepOutcome :=
  finish (sourceSlots .esplit) s (esplitResults s)

/-- The checks of BDEINT in their order, then its results (R58, R47). -/
def bdeintResults (s : State) : Except CmdError Results := do
  let buf ← operand s .s0
  return { d0 := some (byteDeinterleave buf).1, d1 := some (byteDeinterleave buf).2 }

/-- BDEINT (R58). -/
def execBdeint (s : State) : StepOutcome :=
  finish (sourceSlots .bdeint) s (bdeintResults s)

/-- The checks of WDEINT in their order, then its results (R59, R47). -/
def wdeintResults (s : State) : Except CmdError Results := do
  let buf ← operand s .s0
  require (buf.length % 4 == 0) .sizeMismatch
  return { d0 := some (wordDeinterleave buf).1, d1 := some (wordDeinterleave buf).2 }

/-- WDEINT (R59): a length that is not a multiple of 4 raises SizeMismatch. -/
def execWdeint (s : State) : StepOutcome :=
  finish (sourceSlots .wdeint) s (wdeintResults s)

/-- The checks of BFLIP in their order, then its results (R60, R47). -/
def bflipResults (s : State) : Except CmdError Results := do
  let buf ← operand s .s0
  require (buf.length % 2 == 0) .sizeMismatch
  return { d0 := some (byteFlip buf) }

/-- BFLIP (R60): an odd length raises SizeMismatch. -/
def execBflip (s : State) : StepOutcome :=
  finish (sourceSlots .bflip) s (bflipResults s)

/-- The checks of BINT2 in their order, then its results (R61, R47). -/
def bint2Results (s : State) : Except CmdError Results := do
  let a ← operand s .s0
  let b ← operand s .s1
  require (a.length == b.length) .sizeMismatch
  allocate s (2 * a.length)
  return { d0 := some (byteInterleave2 a b) }

/-- BINT2 (R61): unequal lengths, in either direction, raise SizeMismatch. -/
def execBint2 (s : State) : StepOutcome :=
  finish (sourceSlots .bint2) s (bint2Results s)

/-- The checks of BINT4 in their order, then its results (R62, R47). -/
def bint4Results (s : State) : Except CmdError Results := do
  let a ← operand s .s0
  let b ← operand s .s1
  let c ← operand s .s2
  let d ← operand s .s3
  require (a.length == b.length && b.length == c.length && c.length == d.length) .sizeMismatch
  allocate s (4 * a.length)
  return { d0 := some (byteInterleave4 a b c d) }

/-- BINT4 (R62): lengths not all equal raise SizeMismatch. -/
def execBint4 (s : State) : StepOutcome :=
  finish (sourceSlots .bint4) s (bint4Results s)

/-- The checks of SWAPH in their order, then its results (R63, R47). -/
def swaphResults (s : State) : Except CmdError Results := do
  let buf ← operand s .s0
  return { d0 := some (swapHalves buf) }

/-- SWAPH (R63). -/
def execSwaph (s : State) : StepOutcome :=
  finish (sourceSlots .swaph) s (swaphResults s)

end Sys2Proof.Machine
end

