-- ==== Sys2Proof/Machine/Pad.lean ====
section
/-!
DEFINITION. The padding fill unit (45_pad.md R74, R75): PAD.
-/

namespace Sys2Proof.Machine

/-- `pad(buf, targetSize, fillByte)` (R74): the buffer, then fill bytes up to the target length. -/
def padTo (buf : ByteBuffer) (target : Nat) (fillByte : Byte) : ByteBuffer :=
  buf ++ rep fillByte (target - buf.length)

/-- The checks of PAD in their order, then its results (R74, R47). -/
def padResults (s : State) : Except CmdError Results := do
  let buf ← operand s .s0
  require (decide (buf.length ≤ sizeOperand s)) .sizeOutOfRange
  allocate s (sizeOperand s)
  return { d0 := some (padTo buf (sizeOperand s) (fillOperand s)) }

/-- PAD (R74): SIZE below the length raises SizeOutOfRange, SIZE above BUFMAX AllocationFailure. -/
def execPad (s : State) : StepOutcome :=
  finish (sourceSlots .pad) s (padResults s)

end Sys2Proof.Machine
end

