-- ==== Sys2Proof/Machine/Patch.lean ====
section
/-!
DEFINITION. The patch overlay unit (44_patch.md R72, R73): PATCH.
-/

namespace Sys2Proof.Machine

/-- `overlay(base, patch, size)` (R72): the first `size` bytes of `patch`, then `base` from index
`size` on. -/
def overlay (base patch : ByteBuffer) (size : Nat) : ByteBuffer :=
  slice patch 0 size ++ slice base size base.length

/-- The checks of PATCH in their order, then its results (R72, R47). -/
def patchResults (s : State) : Except CmdError Results := do
  let base ← operand s .s0
  let patch ← operand s .s1
  require (decide (sizeOperand s ≤ patch.length)) .sizeOutOfRange
  require (decide (sizeOperand s ≤ base.length)) .sizeOutOfRange
  return { d0 := some (overlay base patch (sizeOperand s)) }

/-- PATCH (R72): SIZE beyond the patch, then SIZE beyond the base, raises SizeOutOfRange. -/
def execPatch (s : State) : StepOutcome :=
  finish (sourceSlots .patch) s (patchResults s)

end Sys2Proof.Machine
end

