-- ==== Sys2Proof/Machine/WordMerge.lean ====
section
/-!
DEFINITION. The word-interleaved merge (43_word_merge.md R70, R71): WMERGE. CAP plays no part in it
(R71).
-/

namespace Sys2Proof.Machine

/-- `wordMerge` (R70): A's word 0, B's word 0, A's word 1, …, each word's bytes in order (R30). The
lengths are equal and even when a command calls it (log 12). -/
def wordMerge : ByteBuffer → ByteBuffer → ByteBuffer
  | a0 :: a1 :: as, b0 :: b1 :: bs => a0 :: a1 :: b0 :: b1 :: wordMerge as bs
  | _, _ => []

/-- The checks of WMERGE in their order, then its results (R70, R47). -/
def wmergeResults (s : State) : Except CmdError Results := do
  let a ← operand s .s0
  let b ← operand s .s1
  require (a.length == b.length) .sizeMismatch
  require (a.length % 2 == 0) .sizeMismatch
  allocate s (2 * a.length)
  return { d0 := some (wordMerge a b) }

/-- WMERGE (R70): unequal lengths, and equal odd lengths, raise SizeMismatch. -/
def execWmerge (s : State) : StepOutcome :=
  finish (sourceSlots .wmerge) s (wmergeResults s)

end Sys2Proof.Machine
end

