-- ==== Sys2Proof/Machine/Dispatch.lean ====
section
/-!
DEFINITION. One arm per command: the direct call of its meaning.
-/

namespace Sys2Proof.Machine

def exec (i : Instr) (s : State) : Host.Outcome State Fault Refusal :=
  match i with
  | .cksum => Sys2Proof.Machine.execCksum s
  | .esplit => Sys2Proof.Machine.execEsplit s
  | .bdeint => Sys2Proof.Machine.execBdeint s
  | .wdeint => Sys2Proof.Machine.execWdeint s
  | .bflip => Sys2Proof.Machine.execBflip s
  | .bint2 => Sys2Proof.Machine.execBint2 s
  | .bint4 => Sys2Proof.Machine.execBint4 s
  | .swaph => Sys2Proof.Machine.execSwaph s
  | .bcat => Sys2Proof.Machine.execBcat s
  | .wmerge => Sys2Proof.Machine.execWmerge s
  | .patch => Sys2Proof.Machine.execPatch s
  | .pad => Sys2Proof.Machine.execPad s

end Sys2Proof.Machine
end

