-- ==== Sys2Proof/Machine/HostPort.lean ====
section
/-!
DEFINITION. What each action of the host does (20_memory.md R36 to R39), the command that a write to
CMD runs (30_encoding.md R47), and the platform's reset (70_reset_and_hazards.md R92).
-/

namespace Sys2Proof.Machine

/-- Run the command word `w` (R47): an illegal word raises IllegalCommand before anything else is
looked at (R45, R82). -/
def runCommand (w : Word) (s : State) : StepOutcome :=
  match decode w with
  | .ok i => exec i s
  | .error _ => .next (raise .illegalCommand s)

/-- `LOAD(n, b)` (R36): `S[n] <- b`, whatever it held; nothing else changes. -/
def loadSlot (n : SrcSlot) (b : ByteBuffer) (s : State) : StepOutcome :=
  if b.length ≤ s.cfg.bufmax then .next { s with mem := setSrc s.mem n (some b) }
  else .refused (.loadTooLong n)

/-- `SAVE(n)` (R37): returns the buffer in `D[n]`, whole, and changes no state of the hardware. -/
def saveSlot (n : DstSlot) (s : State) : StepOutcome :=
  match dstSlot s.mem n with
  | some b => .next (reply (.buffer b) s)
  | none => .refused (.saveEmptySlot n)

/-- `WR(r, v)` (R38): FILL keeps bits 7:0 of `v`; STATUS and CRC are read-only; CMD runs `v`. -/
def writeReg (r : RegName) (v : Word) (s : State) : StepOutcome :=
  match r with
  | .cmd => runCommand v s
  | .status => .next s
  | .seed => .next { s with seed := v }
  | .size => .next { s with size := v }
  | .fill => .next { s with fill := v.extractLsb' 0 8 }
  | .crc => .next s

/-- What register `r` reads as (R39, R16 to R22); nothing for CRC without a value. -/
def regValue (r : RegName) (s : State) : Option Word :=
  match r with
  | .cmd => some 0#32
  | .status => some (statusWord s)
  | .seed => some s.seed
  | .size => some s.size
  | .fill => some (s.fill.setWidth 32)
  | .crc => s.crc

/-- `RD(r)` (R39): no read changes state of the hardware; CRC without a value is refused. -/
def readReg (r : RegName) (s : State) : StepOutcome :=
  match regValue r s with
  | some w => .next (reply (.word w) s)
  | none => .refused .readCrcNoValue

/-- The host's write of `v` at register number `n` of the register port (R16, R28): "an access to any
other number is not an action the host has". -/
def portWrite (n : Nat) (v : Word) : Option HostAction :=
  match regOfNumber n with
  | some r => some (.wr r v)
  | none => none

/-- The host's read at register number `n` of the register port (R16, R28). -/
def portRead (n : Nat) : Option HostAction :=
  match regOfNumber n with
  | some r => some (.rd r)
  | none => none

/-- One action of the host (R36 to R39). -/
def hostAct (a : HostAction) (s : State) : StepOutcome :=
  match a with
  | .load n b => loadSlot n b s
  | .save n => saveSlot n s
  | .wr r v => writeReg r v s
  | .rd r => readReg r s

/-- One event: an action of the host, or a reset (R92). -/
def perform (e : Event) (s : State) : StepOutcome :=
  match e with
  | .action a => hostAct a s
  | .reset => .next (resetHardware s)

/-- Take the next event of the run's list and perform it (R100). With none left nothing happens: the
engine is idle with all its state kept (R89, R91, R100; log 3). -/
def takeEvent (s : State) : StepOutcome :=
  match s.pending with
  | [] => .next s
  | e :: rest => perform e { s with pending := rest }

end Sys2Proof.Machine
end

