-- ==== Sys2Proof/Machine/Step.lean ====
section
/-!
DEFINITION. One step, and how a command comes to be the next one. The hardware fetches nothing
(10_state.md R11): a command comes from the host's write to CMD.
-/

namespace Sys2Proof.Machine

/-- One step of a run: one action of the host, complete when it returns (R34, R100). -/
def step (s : State) : Host.Outcome State Fault Refusal := takeEvent s

/-- `s` with one host action put before all others: the write to CMD of the word whose low `nbits` bits
are those of `w` (R17, R38). The next step runs exactly that command (log 3). -/
def State.withFetchWord (s : State) (nbits w : Nat) : State :=
  { s with pending := .action (.wr .cmd (tableWord nbits w)) :: s.pending }

end Sys2Proof.Machine
end

