-- ==== Sys2Proof/Machine/Report.lean ====
section
/-!
DEFINITION. Two conventions of the host's side that the spec gives so that a model of the host can be
held to them: the checksum report line (20_memory.md R40) and the names of BCAT's banks (R41). Text
is a list of characters.
-/

namespace Sys2Proof.Machine

/-- The lowercase hex digit of `n mod 16`. -/
def hexDigit (n : Nat) : Char :=
  if n % 16 < 10 then Char.ofNat (48 + n % 16) else Char.ofNat (87 + n % 16)

/-- `digits` lowercase hex digits of `n`, most significant first (R31, R40). -/
def hexDigits : Nat → Nat → List Char
  | 0, _ => []
  | digits + 1, n => hexDigit (n / 16 ^ digits) :: hexDigits digits n

/-- The decimal digits of `n`, most significant first, without leading zeros; `fuel` bounds their
number. -/
def decimalDigits : Nat → Nat → List Char
  | 0, _ => []
  | fuel + 1, n =>
    if n < 10 then [Char.ofNat (48 + n)] else decimalDigits fuel (n / 10) ++ [Char.ofNat (48 + n % 10)]

/-- The report of R40: the path, a space, `size:` and the length in decimal, a space, `crc32:0x` and
eight lowercase hex digits of the checksum. A length is below 2^32 (R23), so ten decimal digits do.
No line end is part of it (N14; log 10). -/
def checksumReport (path : List Char) (len : Nat) (crc : Word) : List Char :=
  path ++ [' ', 's', 'i', 'z', 'e', ':'] ++ decimalDigits 10 len ++
    [' ', 'c', 'r', 'c', '3', '2', ':', '0', 'x'] ++ hexDigits 8 crc.toNat

/-- The host's report of a CKSUM issued in state `s`, the buffer in S0 loaded from `path` (R40): the
length is that of the buffer that was in S0 before the command, the checksum is what CRC holds after it.
A CKSUM that does not end with OK has no report. -/
def reportOfCksum (path : List Char) (s : State) : Option (List Char) :=
  match s.mem.s0, exec .cksum s with
  | some data, .next t =>
    match t.crc with
    | some crc => if t.code = codeOk then some (checksumReport path data.length crc) else none
    | none => none
  | _, _ => none

/-- The ordered collection of (name hint, buffer) pairs of R41: D0 as `prom`, then D1, when it holds a
buffer, as `prom1`. -/
def bankOutputs (s : State) : List (List Char × ByteBuffer) :=
  (match s.mem.d0 with
    | some b => [(['p', 'r', 'o', 'm'], b)]
    | none => []) ++
  (match s.mem.d1 with
    | some b => [(['p', 'r', 'o', 'm', '1'], b)]
    | none => [])

end Sys2Proof.Machine
end

