-- ==== Sys2Proof/Machine/Listing.lean ====
section
/-!
DEFINITION. The program lines of this spec (30_encoding.md R49, R50): a mnemonic alone on a line, or a
directive for one host action; what each stands for, and its spelling.
-/

namespace Sys2Proof.Machine

/-- One line of a program (R49). -/
inductive Line where
  | command (i : Instr)
  | load (n : SrcSlot) (b : ByteBuffer)
  | save (n : DstSlot)
  | wr (r : RegName) (v : Word)
  | rd (r : RegName)
  deriving DecidableEq, Repr

/-- "every line of a program is one host action" (R50); "a mnemonic line `M` stands for
`WR CMD, <command word of M>`" (R49). -/
def lineAction : Line → HostAction
  | .command i => .wr .cmd (encode i)
  | .load n b => .load n b
  | .save n => .save n
  | .wr r v => .wr r v
  | .rd r => .rd r

/-- The host actions of a program, in the order of its lines (R49, R50, R100). -/
def programEvents (p : List Line) : List Event := p.map fun l => .action (lineAction l)

/-- The name of a source slot (R14, R49). -/
def srcName : SrcSlot → List Char
  | .s0 => ['S', '0']
  | .s1 => ['S', '1']
  | .s2 => ['S', '2']
  | .s3 => ['S', '3']

/-- The name of a destination slot (R15, R49). -/
def dstName : DstSlot → List Char
  | .d0 => ['D', '0']
  | .d1 => ['D', '1']

/-- The name of a register (R16). -/
def regText : RegName → List Char
  | .cmd => ['C', 'M', 'D']
  | .status => ['S', 'T', 'A', 'T', 'U', 'S']
  | .seed => ['S', 'E', 'E', 'D']
  | .size => ['S', 'I', 'Z', 'E']
  | .fill => ['F', 'I', 'L', 'L']
  | .crc => ['C', 'R', 'C']

/-- The uppercase hex digits used in this spec's listings. -/
def upperHex (digits n : Nat) : List Char := (hexDigits digits n).map Char.toUpper

/-- A list of two-digit hex bytes separated by spaces, `[]` when empty (R49). -/
def bytesText : ByteBuffer → List Char
  | [] => ['[', ']']
  | [x] => upperHex 2 x.toNat
  | x :: y :: rest => upperHex 2 x.toNat ++ [' '] ++ bytesText (y :: rest)

/-- A line as R49 writes it. A value is spelled `0x` and eight hex digits (log 13). -/
def lineText : Line → List Char
  | .command i => (mnemonic i).toList
  | .load n b => ['L', 'O', 'A', 'D', ' '] ++ srcName n ++ [',', ' '] ++ bytesText b
  | .save n => ['S', 'A', 'V', 'E', ' '] ++ dstName n
  | .wr r v => ['W', 'R', ' '] ++ regText r ++ [',', ' ', '0', 'x'] ++ upperHex 8 v.toNat
  | .rd r => ['R', 'D', ' '] ++ regText r

end Sys2Proof.Machine
end

