-- ==== Sys2Proof/Safety.lean ====
section
/-!
DEFINITION. What counts as a good state and a safe run, in the terms the statements use: the
invariant of 10_state.md section 7 with R18's codes, the host's duties (20_memory.md section 7), and the
run and its end (70_reset_and_hazards.md
R100).
-/

namespace Sys2Proof.Machine

/-- The invariant: the parameters meet R5 and R7, every buffer in a slot has `len ≤ BUFMAX` (R13), and
CODE is one of the values that can occur (R18). -/
def stateWf (s : State) : Bool :=
  s.cfg.wf && s.mem.wf s.cfg.bufmax && codeLegal s.code

/-- `k` steps, stopping at the first action refused: the run that `Host.Core.run` gives of this machine
(Laws/Step.lean proves the two equal). -/
def runFor : Nat → State → StepOutcome
  | 0, s => .next s
  | k + 1, s =>
    match step s with
    | .next s' => runFor k s'
    | .fault r => .fault r
    | .refused r => .refused r

/-- The run of R100: every action of the list, in order, ended when the list is. -/
def runAll (s : State) : StepOutcome := runFor s.pending.length s

/-- The host's duty for its next event (20_memory.md section 7): it loads no buffer longer than BUFMAX
(R36) and saves a slot or reads CRC only while the result is valid (R37, R39). Nothing else is asked:
an illegal word written to CMD is reported (R45), and the platform may reset at any time (R92). -/
def hostMay (s : State) : Event → Bool
  | .action (.load _ b) => decide (b.length ≤ s.cfg.bufmax)
  | .action (.save n) => (dstSlot s.mem n).isSome
  | .action (.wr _ _) => true
  | .action (.rd r) => r != .crc || s.crc.isSome
  | .reset => true

/-- Along `k` steps the host keeps its duty for every event, in the state that the event meets. What
follows a refused event is not asked for. -/
def keepsDuties : Nat → State → Bool
  | 0, _ => true
  | k + 1, s =>
    (match s.pending with
      | [] => true
      | e :: _ => hostMay s e) &&
    (match step s with
      | .next t => keepsDuties k t
      | .fault _ => true
      | .refused _ => true)

/-- A safe run: it reaches an end state, no action of it is refused (R100). -/
def SafeRun (s : State) : Prop := ∃ t, runAll s = .next t

end Sys2Proof.Machine
end

