-- ==== Sys2Proof/Certificates/Slice0/Obligations.lean ====
section
/-!
DEFINITION. The statements for the provers. Each docstring names the rule or section of spec/ it
formalises. Where a statement says what a command leaves, it gives the whole next state, so it is
also the command's frame: every slot, register and byte not named in the update is unchanged.
-/

open Sys2Proof Sys2Proof.Machine

/-! ### Encoding (30_encoding.md) -/

/-- Decoding the encoded word of a command gives the command back (R42, R43). -/
def Obligations.DecodeOfEncodeGivesTheCommand : Prop :=
  ∀ i : Instr, decode (encode i) = .ok i

/-- A word decodes to a command exactly when it is that command's word: a decoder looks at all 32 bits
(R42). -/
def Obligations.DecodeAcceptsOnlyTheEncodedWord : Prop :=
  ∀ (w : Word) (i : Instr), decode w = .ok i ↔ w = encode i

/-- The twelve words of R43, written out, with their mnemonics. -/
def Obligations.SpecWordsAreTheTwelveCommands : Prop :=
  ∀ row ∈ [(0x00000001#32, Instr.cksum, "CKSUM"), (0x00000002#32, Instr.esplit, "ESPLIT"),
      (0x00000003#32, Instr.bdeint, "BDEINT"), (0x00000004#32, Instr.wdeint, "WDEINT"),
      (0x00000005#32, Instr.bflip, "BFLIP"), (0x00000006#32, Instr.bint2, "BINT2"),
      (0x00000007#32, Instr.bint4, "BINT4"), (0x00000008#32, Instr.swaph, "SWAPH"),
      (0x00000009#32, Instr.bcat, "BCAT"), (0x0000000A#32, Instr.wmerge, "WMERGE"),
      (0x0000000B#32, Instr.patch, "PATCH"), (0x0000000C#32, Instr.pad, "PAD")],
    decode row.1 = .ok row.2.1 ∧ encode row.2.1 = row.1 ∧ mnemonic row.2.1 = row.2.2

/-- R45, R82: every word but 1 to 12 is illegal, and writing it to CMD changes CODE to 6 and nothing
else, whatever the slots hold. -/
def Obligations.IllegalWordChangesOnlyCode : Prop :=
  ∀ (w : Word) (s : State), ¬ (1 ≤ w.toNat ∧ w.toNat ≤ 12) →
    hostAct (.wr .cmd w) s = .next { s with code := 6#4 }

/-! ### The step -/

/-- A step whose next event is a write to CMD of a word that decodes runs that command, with the event
taken off the list (R17, R47). -/
def Obligations.StepRunsTheDecodedCommand : Prop :=
  ∀ (s : State) (w : Word) (i : Instr) (rest : List Event),
    s.pending = .action (.wr .cmd w) :: rest → decode w = .ok i →
    step s = exec i { s with pending := rest }

/-- A command placed with `withFetchWord` is the command the next step runs, on the state it was placed
in. The list of actions is the model's own (log 3). -/
def Obligations.PlacedCommandRunsNext : Prop :=
  ∀ (s : State) (i : Instr), step (s.withFetchWord 32 (encode i).toNat) = exec i s

/-- A mnemonic line is a write of the command's word to CMD, and the step that takes it runs the command
(R49, R50). -/
def Obligations.MnemonicLineRunsItsCommand : Prop :=
  ∀ (s : State) (i : Instr) (lines : List Line),
    s.pending = programEvents (.command i :: lines) →
    step s = exec i { s with pending := programEvents lines }

/-- A step takes one event off the list and performs it; with no event left it changes nothing. The
second clause is the model's choice (log 3), after R89 and R100. -/
def Obligations.StepTakesOneEvent : Prop :=
  ∀ s : State,
    (∀ e rest, s.pending = e :: rest → step s = perform e { s with pending := rest }) ∧
    (s.pending = [] → step s = .next s)

/-- No step faults, and a step is refused exactly where the rules say the model refuses the action: LOAD
of a buffer longer than BUFMAX (R36), SAVE of an empty slot (R37), RD of CRC without a value (R39). -/
def Obligations.StepIsRefusedOnlyWhereTheRulesSay : Prop :=
  ∀ s : State,
    (∃ t, step s = .next t) ∨
    (∃ n b rest, s.pending = .action (.load n b) :: rest ∧ s.cfg.bufmax < b.length ∧
      step s = .refused (.loadTooLong n)) ∨
    (∃ n rest, s.pending = .action (.save n) :: rest ∧ dstSlot s.mem n = none ∧
      step s = .refused (.saveEmptySlot n)) ∨
    (∃ rest, s.pending = .action (.rd .crc) :: rest ∧ s.crc = none ∧
      step s = .refused .readCrcNoValue)

/-! ### The host's actions (20_memory.md R36 to R39) and reset -/

/-- R36: LOAD puts the buffer in its slot, whatever the slot held, and changes nothing else; a buffer
longer than BUFMAX cannot be loaded. -/
def Obligations.LoadReplacesOneSourceSlot : Prop :=
  ∀ (s : State) (n : SrcSlot) (b : ByteBuffer),
    (b.length ≤ s.cfg.bufmax → ∃ m : Memory,
      hostAct (.load n b) s = .next { s with mem := m } ∧ srcSlot m n = some b ∧
      (∀ k, k ≠ n → srcSlot m k = srcSlot s.mem k) ∧ (∀ k, dstSlot m k = dstSlot s.mem k)) ∧
    (s.cfg.bufmax < b.length → hostAct (.load n b) s = .refused (.loadTooLong n))

/-- R37: SAVE returns the whole buffer of a valid destination slot and changes no state of the hardware;
of an empty slot it is refused. -/
def Obligations.SaveReturnsTheWholeBuffer : Prop :=
  ∀ (s : State) (n : DstSlot),
    (∀ b, dstSlot s.mem n = some b →
      hostAct (.save n) s = .next { s with replies := s.replies ++ [.buffer b] }) ∧
    (dstSlot s.mem n = none → hostAct (.save n) s = .refused (.saveEmptySlot n))

/-- R38: what a write does to each register. FILL keeps bits 7:0, that is the value modulo 256; a write to
a read-only register changes nothing; a write to CMD runs the command, or raises IllegalCommand. -/
def Obligations.RegisterWriteFollowsItsAccess : Prop :=
  ∀ (s : State) (v : Word),
    hostAct (.wr .seed v) s = .next { s with seed := v } ∧
    hostAct (.wr .size v) s = .next { s with size := v } ∧
    hostAct (.wr .fill v) s = .next { s with fill := BitVec.ofNat 8 v.toNat } ∧
    hostAct (.wr .status v) s = .next s ∧
    hostAct (.wr .crc v) s = .next s ∧
    (∀ i, decode v = .ok i → hostAct (.wr .cmd v) s = exec i s) ∧
    (∀ e, decode v = .error e → hostAct (.wr .cmd v) s = .next { s with code := 6#4 })

/-- R39: what a read of each register returns. STATUS is CODE plus 0x100, 0x200 and 0x400 for D0V, D1V and
CRCV; CMD reads as 0; FILL is zero-extended; CRC without a value is refused. No read changes state of
the hardware. -/
def Obligations.RegisterReadReturnsItsValue : Prop :=
  ∀ s : State,
    (∃ v : Word, v.toNat = s.code.toNat + (if s.mem.d0.isSome then 0x100 else 0) +
        (if s.mem.d1.isSome then 0x200 else 0) + (if s.crc.isSome then 0x400 else 0) ∧
      hostAct (.rd .status) s = .next { s with replies := s.replies ++ [.word v] }) ∧
    hostAct (.rd .cmd) s = .next { s with replies := s.replies ++ [.word 0#32] } ∧
    hostAct (.rd .seed) s = .next { s with replies := s.replies ++ [.word s.seed] } ∧
    hostAct (.rd .size) s = .next { s with replies := s.replies ++ [.word s.size] } ∧
    hostAct (.rd .fill) s =
      .next { s with replies := s.replies ++ [.word (BitVec.ofNat 32 s.fill.toNat)] } ∧
    (∀ w, s.crc = some w →
      hostAct (.rd .crc) s = .next { s with replies := s.replies ++ [.word w] }) ∧
    (s.crc = none → hostAct (.rd .crc) s = .refused .readCrcNoValue)

/-- R16's numbering of the registers, which R28 says the hardware fixes: CMD 0, STATUS 1, SEED 2, SIZE 3,
FILL 4, CRC 5; a number selects the register that has it, for a write as for a read, and with 6 and
above the host has no action. And the fields of STATUS (R18): CODE in bits 3:0, the valid bits in 8, 9
and 10, all others 0. -/
def Obligations.RegistersStandAtTheirNumbersAndBits : Prop :=
  (regNumber .cmd = 0 ∧ regNumber .status = 1 ∧ regNumber .seed = 2 ∧ regNumber .size = 3 ∧
    regNumber .fill = 4 ∧ regNumber .crc = 5) ∧
  (∀ n r, regOfNumber n = some r ↔ regNumber r = n) ∧
  (∀ (r : RegName) (v : Word),
    portWrite (regNumber r) v = some (.wr r v) ∧ portRead (regNumber r) = some (.rd r)) ∧
  (∀ (n : Nat) (v : Word), 6 ≤ n → portWrite n v = none ∧ portRead n = none) ∧
  ∀ s : State,
    (statusWord s).extractLsb' 0 4 = s.code ∧ (statusWord s).extractLsb' 4 4 = 0#4 ∧
    (statusWord s).getLsbD 8 = s.mem.d0.isSome ∧ (statusWord s).getLsbD 9 = s.mem.d1.isSome ∧
    (statusWord s).getLsbD 10 = s.crc.isSome ∧ (statusWord s).extractLsb' 11 21 = 0#21

/-- R25: the state after reset, of the machine as it stands after reset and of a reset from any state:
every slot `none`, CRC without a value, CODE, SEED, SIZE and FILL 0. -/
def Obligations.ResetLeavesTheResetState : Prop :=
  (∀ s : State, (s = State.reset ∨ (∃ c, s = State.resetWith c) ∨
      (∃ before, perform .reset before = .next s)) →
    (∀ n, srcSlot s.mem n = none) ∧ (∀ n, dstSlot s.mem n = none) ∧ s.crc = none ∧
    s.code = 0#4 ∧ s.seed = 0#32 ∧ s.size = 0#32 ∧ s.fill = 0#8 ∧ statusWord s = 0#32) ∧
  ∀ before : State, ∃ t, perform .reset before = .next t

/-! ### Errors and commit (60_exceptions.md, 30_encoding.md R46 to R48) -/

/-- R86: an error gets its code of R76 into CODE and changes nothing else; and a command that does not end
with OK has changed nothing but CODE. -/
def Obligations.FailedCommandChangesOnlyCode : Prop :=
  (∀ (e : CmdError) (s : State), raise e s = { s with code := errorCode e }) ∧
  (∀ (i : Instr) (s t : State), exec i s = .next t → t.code ≠ 0#4 → t = { s with code := t.code })

/-- The codes of R76. -/
def Obligations.ErrorCodesOfTheTaxonomy : Prop :=
  errorCode .inputNotFound = 1#4 ∧ errorCode .ioFailure = 2#4 ∧
  errorCode .allocationFailure = 3#4 ∧ errorCode .sizeMismatch = 4#4 ∧
  errorCode .sizeOutOfRange = 5#4 ∧ errorCode .illegalCommand = 6#4 ∧ codeOk = 0#4

/-- The operand columns of R44: which source slots each command reads. -/
def Obligations.OperandSlotsOfEachCommand : Prop :=
  ∀ i : Instr, sourceSlots i = match i with
    | .cksum | .esplit | .bdeint | .wdeint | .bflip | .swaph | .pad => [.s0]
    | .bint2 | .bcat | .wmerge | .patch => [.s0, .s1]
    | .bint4 => [.s0, .s1, .s2, .s3]

/-- R48: a command that ends with OK leaves the slots it reads empty and the others as they were, SEED,
SIZE and FILL as they were, a checksum exactly for CKSUM, a buffer in D0 exactly for the other eleven,
and in D1 exactly for the splits and for BCAT beyond one bank. -/
def Obligations.SuccessfulCommandCommits : Prop :=
  ∀ (i : Instr) (s t : State), exec i s = .next t → t.code = 0#4 →
    (∀ n, n ∈ sourceSlots i → srcSlot t.mem n = none) ∧
    (∀ n, n ∉ sourceSlots i → srcSlot t.mem n = srcSlot s.mem n) ∧
    t.seed = s.seed ∧ t.size = s.size ∧ t.fill = s.fill ∧ t.cfg = s.cfg ∧
    t.pending = s.pending ∧ t.replies = s.replies ∧
    (t.crc.isSome = true ↔ i = .cksum) ∧ (t.mem.d0.isSome = true ↔ i ≠ .cksum) ∧
    (t.mem.d1.isSome = true ↔ (i = .esplit ∨ i = .bdeint ∨ i = .wdeint ∨
      (i = .bcat ∧ ∃ a b, s.mem.s0 = some a ∧ s.mem.s1 = some b ∧ s.cfg.cap < a.length + b.length)))

/-- R78, with the priority of R85: a command that reads an empty slot raises InputNotFound, whatever its
other operands and parameters are. Every command reads S0; BINT2, BCAT, WMERGE and PATCH also read S1;
BINT4 reads all four. -/
def Obligations.MissingOperandIsReportedFirst : Prop :=
  ∀ (i : Instr) (s : State),
    (s.mem.s0 = none → exec i s = .next { s with code := 1#4 }) ∧
    (i = .bint2 ∨ i = .bint4 ∨ i = .bcat ∨ i = .wmerge ∨ i = .patch → s.mem.s1 = none →
      exec i s = .next { s with code := 1#4 }) ∧
    (i = .bint4 → s.mem.s2 = none ∨ s.mem.s3 = none → exec i s = .next { s with code := 1#4 })

/-- Every command ends with a next state, from every state, and with one of the codes 0, 1, 3, 4, 5 (R46,
R76). -/
def Obligations.EveryCommandEndsWithACode : Prop :=
  ∀ (i : Instr) (s : State), ∃ t, exec i s = .next t ∧
    (t.code = 0#4 ∨ t.code = 1#4 ∨ t.code = 3#4 ∨ t.code = 4#4 ∨ t.code = 5#4)

/-- R46: two states that agree on the operands R44 lists for a command, and on CAP and BUFMAX, end it with
the same code, and on success with the same results: nothing else of the state matters. -/
def Obligations.CommandDependsOnItsOperandsOnly : Prop :=
  ∀ (i : Instr) (s s' : State),
    (∀ n, n ∈ sourceSlots i → srcSlot s.mem n = srcSlot s'.mem n) → s.cfg = s'.cfg →
    (i = .cksum → s.seed = s'.seed) → (i = .patch ∨ i = .pad → s.size = s'.size) →
    (i = .pad → s.fill = s'.fill) →
    ∃ t t', exec i s = .next t ∧ exec i s' = .next t' ∧ t.code = t'.code ∧
      (t.code = 0#4 → t.mem.d0 = t'.mem.d0 ∧ t.mem.d1 = t'.mem.d1 ∧ t.crc = t'.crc)

/-- After an error everything is still in place (R88): the same command, issued again, ends in the same
state. -/
def Obligations.ReissueAfterErrorFailsAlike : Prop :=
  ∀ (i : Instr) (s t : State), exec i s = .next t → t.code ≠ 0#4 → exec i t = .next t

/-- After a success the operands are gone (R96): the same command, issued again without a LOAD, raises
InputNotFound and keeps the results. -/
def Obligations.ReissueAfterSuccessFindsNoOperand : Prop :=
  ∀ (i : Instr) (s t : State), exec i s = .next t → t.code = 0#4 →
    exec i t = .next { t with code := 1#4 }

/-- R79, and the last row of R76: no step writes 2, or 7 to 15, to CODE. -/
def Obligations.UnusedCodesAreNeverWritten : Prop :=
  ∀ s t : State, step s = .next t → (t.code = 2#4 ∨ 7 ≤ t.code.toNat) → t.code = s.code

/-- Bytes of the slots that a command does not touch (R27, R48, R86): a source slot it does not read keeps
every byte; after an error every slot keeps every byte. -/
def Obligations.CommandLeavesOtherBytesAlone : Prop :=
  ∀ (i : Instr) (s t : State), exec i s = .next t →
    (∀ n addr, n ∉ sourceSlots i → readByte t.mem (.src n) addr = readByte s.mem (.src n) addr) ∧
    (t.code ≠ 0#4 → ∀ sp addr, readByte t.mem sp addr = readByte s.mem sp addr)

/-! ### Checksum accumulator (40_checksum.md) -/

/-- R51, in natural numbers: eight rounds from `i × 2^24`, each doubling within 32 bits and XORing the
polynomial when bit 31 was set. -/
def Obligations.TableEntryIsEightRounds : Prop :=
  ∀ i : Byte, (tableEntry i).toNat =
    (fun a : Nat => if 2 ^ 31 ≤ a then ((2 * a) % 2 ^ 32) ^^^ 0x04C11DB7 else (2 * a) % 2 ^ 32)^[8]
      (i.toNat * 2 ^ 24)

/-- R52, in natural numbers: the index is the top byte XOR the data byte; the update shifts within 32 bits
and XORs the table entry; the buffer is consumed in increasing index order, each byte once. -/
def Obligations.ChecksumUpdateFollowsItsRule : Prop :=
  (∀ (a : Word) (b : Byte), (crcStep a b).toNat =
    ((a.toNat * 2 ^ 8) % 2 ^ 32) ^^^
      (tableEntry (BitVec.ofNat 8 ((a.toNat / 2 ^ 24) ^^^ b.toNat))).toNat) ∧
  (∀ a : Word, crcUpdate a [] = a) ∧
  (∀ (a : Word) (data : ByteBuffer) (b : Byte),
    crcUpdate a (data ++ [b]) = crcStep (crcUpdate a data) b)

/-- R53: CKSUM. -/
def Obligations.ChecksumCommandFollowsItsRule : Prop :=
  decode 0x00000001#32 = .ok .cksum ∧ ∀ s : State,
    (s.mem.s0 = none → exec .cksum s = .next { s with code := 1#4 }) ∧
    (∀ data, s.mem.s0 = some data → ∃ t,
      t = { s with
        mem := { s.mem with s0 := none, d0 := none, d1 := none }
        crc := some (crcUpdate s.seed data)
        code := 0#4 } ∧
      exec .cksum s = .next t ∧ statusWord t = 0x400#32 ∧ (data = [] → t.crc = some s.seed))

/-- R54 item 4: checksums chain. -/
def Obligations.ChecksumChains : Prop :=
  ∀ (seed : Word) (x y : ByteBuffer), crcUpdate (crcUpdate seed x) y = crcUpdate seed (x ++ y)

/-- R54 item 5: the update is eight shift-and-XOR rounds on the accumulator with the byte XORed into its
top byte. -/
def Obligations.ChecksumUpdateIsBitwise : Prop :=
  ∀ (a : Word) (b : Byte), crcStep a b = tableRounds 8 (a ^^^ (b.setWidth 32 <<< 24))

/-- R54 item 3: two buffers of one length that differ at exactly one index have different checksums. -/
def Obligations.ChecksumSeesEverySingleByteChange : Prop :=
  ∀ (seed : Word) (x y : ByteBuffer) (k : Nat), x.length = y.length → x[k]? ≠ y[k]? →
    (∀ j, j ≠ k → x[j]? = y[j]?) → crcUpdate seed x ≠ crcUpdate seed y

/-! ### Interleave engine (41_interleave.md) -/

/-- R57: ESPLIT. -/
def Obligations.EqualSplitCommandFollowsItsRule : Prop :=
  decode 0x00000002#32 = .ok .esplit ∧ ∀ s : State,
    (s.mem.s0 = none → exec .esplit s = .next { s with code := 1#4 }) ∧
    (∀ buf, s.mem.s0 = some buf → ∃ (A B : ByteBuffer) (t : State),
      A.length = buf.length / 2 ∧ B.length = buf.length / 2 ∧
      (∀ i, i < buf.length / 2 → A[i]? = buf[i]? ∧ B[i]? = buf[buf.length / 2 + i]?) ∧
      t = { s with
        mem := { s.mem with s0 := none, d0 := some A, d1 := some B }
        crc := none
        code := 0#4 } ∧
      exec .esplit s = .next t ∧ statusWord t = 0x300#32)

/-- R58: BDEINT. -/
def Obligations.ByteDeinterleaveCommandFollowsItsRule : Prop :=
  decode 0x00000003#32 = .ok .bdeint ∧ ∀ s : State,
    (s.mem.s0 = none → exec .bdeint s = .next { s with code := 1#4 }) ∧
    (∀ buf, s.mem.s0 = some buf → ∃ (A B : ByteBuffer) (t : State),
      A.length = buf.length / 2 ∧ B.length = buf.length / 2 ∧
      (∀ k, k < buf.length / 2 → A[k]? = buf[2 * k]? ∧ B[k]? = buf[2 * k + 1]?) ∧
      t = { s with
        mem := { s.mem with s0 := none, d0 := some A, d1 := some B }
        crc := none
        code := 0#4 } ∧
      exec .bdeint s = .next t ∧ statusWord t = 0x300#32)

/-- R59: WDEINT. -/
def Obligations.WordDeinterleaveCommandFollowsItsRule : Prop :=
  decode 0x00000004#32 = .ok .wdeint ∧ ∀ s : State,
    (s.mem.s0 = none → exec .wdeint s = .next { s with code := 1#4 }) ∧
    (∀ buf, s.mem.s0 = some buf → buf.length % 4 ≠ 0 →
      exec .wdeint s = .next { s with code := 4#4 }) ∧
    (∀ buf, s.mem.s0 = some buf → buf.length % 4 = 0 → ∃ (A B : ByteBuffer) (t : State),
      A.length = 2 * (buf.length / 4) ∧ B.length = 2 * (buf.length / 4) ∧
      (∀ k, k < buf.length / 4 →
        A[2 * k]? = buf[4 * k]? ∧ A[2 * k + 1]? = buf[4 * k + 1]? ∧
        B[2 * k]? = buf[4 * k + 2]? ∧ B[2 * k + 1]? = buf[4 * k + 3]?) ∧
      t = { s with
        mem := { s.mem with s0 := none, d0 := some A, d1 := some B }
        crc := none
        code := 0#4 } ∧
      exec .wdeint s = .next t ∧ statusWord t = 0x300#32)

/-- R60: BFLIP. -/
def Obligations.ByteFlipCommandFollowsItsRule : Prop :=
  decode 0x00000005#32 = .ok .bflip ∧ ∀ s : State,
    (s.mem.s0 = none → exec .bflip s = .next { s with code := 1#4 }) ∧
    (∀ buf, s.mem.s0 = some buf → buf.length % 2 ≠ 0 →
      exec .bflip s = .next { s with code := 4#4 }) ∧
    (∀ buf, s.mem.s0 = some buf → buf.length % 2 = 0 → ∃ (buf' : ByteBuffer) (t : State),
      buf'.length = buf.length ∧
      (∀ k, k < buf.length / 2 → buf'[2 * k]? = buf[2 * k + 1]? ∧ buf'[2 * k + 1]? = buf[2 * k]?) ∧
      t = { s with
        mem := { s.mem with s0 := none, d0 := some buf', d1 := none }
        crc := none
        code := 0#4 } ∧
      exec .bflip s = .next t ∧ statusWord t = 0x100#32)

/-- R61: BINT2. -/
def Obligations.ByteInterleave2CommandFollowsItsRule : Prop :=
  decode 0x00000006#32 = .ok .bint2 ∧ ∀ s : State,
    (s.mem.s0 = none ∨ s.mem.s1 = none → exec .bint2 s = .next { s with code := 1#4 }) ∧
    ∀ A B, s.mem.s0 = some A → s.mem.s1 = some B →
      (A.length ≠ B.length → exec .bint2 s = .next { s with code := 4#4 }) ∧
      (A.length = B.length → s.cfg.bufmax < 2 * A.length →
        exec .bint2 s = .next { s with code := 3#4 }) ∧
      (A.length = B.length → 2 * A.length ≤ s.cfg.bufmax → ∃ (C : ByteBuffer) (t : State),
        C.length = 2 * A.length ∧
        (∀ k, k < A.length → C[2 * k]? = A[k]? ∧ C[2 * k + 1]? = B[k]?) ∧
        t = { s with
          mem := { s.mem with s0 := none, s1 := none, d0 := some C, d1 := none }
          crc := none
          code := 0#4 } ∧
        exec .bint2 s = .next t ∧ statusWord t = 0x100#32)

/-- R62: BINT4. -/
def Obligations.ByteInterleave4CommandFollowsItsRule : Prop :=
  decode 0x00000007#32 = .ok .bint4 ∧ ∀ s : State,
    (s.mem.s0 = none ∨ s.mem.s1 = none ∨ s.mem.s2 = none ∨ s.mem.s3 = none →
      exec .bint4 s = .next { s with code := 1#4 }) ∧
    ∀ A B C D, s.mem.s0 = some A → s.mem.s1 = some B → s.mem.s2 = some C → s.mem.s3 = some D →
      (¬ (A.length = B.length ∧ B.length = C.length ∧ C.length = D.length) →
        exec .bint4 s = .next { s with code := 4#4 }) ∧
      (A.length = B.length ∧ B.length = C.length ∧ C.length = D.length →
        s.cfg.bufmax < 4 * A.length → exec .bint4 s = .next { s with code := 3#4 }) ∧
      (A.length = B.length ∧ B.length = C.length ∧ C.length = D.length →
        4 * A.length ≤ s.cfg.bufmax → ∃ (E : ByteBuffer) (t : State),
        E.length = 4 * A.length ∧
        (∀ k, k < A.length → E[4 * k]? = A[k]? ∧ E[4 * k + 1]? = B[k]? ∧
          E[4 * k + 2]? = C[k]? ∧ E[4 * k + 3]? = D[k]?) ∧
        t = { s with
          mem := { s0 := none, s1 := none, s2 := none, s3 := none, d0 := some E, d1 := none }
          crc := none
          code := 0#4 } ∧
        exec .bint4 s = .next t ∧ statusWord t = 0x100#32)

/-- R63: SWAPH. -/
def Obligations.SwapHalvesCommandFollowsItsRule : Prop :=
  decode 0x00000008#32 = .ok .swaph ∧ ∀ s : State,
    (s.mem.s0 = none → exec .swaph s = .next { s with code := 1#4 }) ∧
    (∀ buf, s.mem.s0 = some buf → ∃ (buf' : ByteBuffer) (t : State),
      buf'.length = 2 * (buf.length / 2) ∧
      (∀ i, i < buf.length / 2 → buf'[i]? = buf[buf.length / 2 + i]? ∧
        buf'[buf.length / 2 + i]? = buf[i]?) ∧
      t = { s with
        mem := { s.mem with s0 := none, d0 := some buf', d1 := none }
        crc := none
        code := 0#4 } ∧
      exec .swaph s = .next t ∧ statusWord t = 0x100#32)

/-- R64: the byte and the word commands are the two settings of one pair of functions, `deint` and
`inter`. -/
def Obligations.StrideViewAgreesWithTheCommands : Prop :=
  (∀ buf, byteDeinterleave buf = deint buf 1) ∧
  (∀ buf : ByteBuffer, buf.length % 4 = 0 → wordDeinterleave buf = deint buf 2) ∧
  (∀ a b : ByteBuffer, a.length = b.length → byteInterleave2 a b = inter a b 1) ∧
  (∀ a b : ByteBuffer, a.length = b.length → a.length % 2 = 0 → wordMerge a b = inter a b 2)

/-- R65, items 1 to 6, of the functions the commands compute. -/
def Obligations.InterleavePropertiesHold : Prop :=
  (∀ B, byteInterleave2 (byteDeinterleave B).1 (byteDeinterleave B).2 =
    B.take (2 * (B.length / 2))) ∧
  (∀ B : ByteBuffer, B.length % 2 = 0 → byteFlip (byteFlip B) = B) ∧
  (∀ B : ByteBuffer, B.length % 2 = 0 → swapHalves (swapHalves B) = B) ∧
  (∀ B : ByteBuffer, B.length % 2 = 1 → swapHalves (swapHalves B) = B.take (B.length - 1)) ∧
  (∀ B : ByteBuffer, B.length % 4 = 0 →
    wordMerge (wordDeinterleave B).1 (wordDeinterleave B).2 = B) ∧
  (∀ B, swapHalves B = (equalSplit B).2 ++ (equalSplit B).1) ∧
  (∀ B : ByteBuffer, B.length % 2 = 0 →
    byteDeinterleave (byteFlip B) = ((byteDeinterleave B).2, (byteDeinterleave B).1))

/-- R65 items 1 and 4 through the machine: the two results of BDEINT (of WDEINT), put into S0 and S1,
are merged by BINT2 (by WMERGE) into the buffer that was split, less a dropped odd byte. -/
def Obligations.MergeUndoesDeinterleaveOnTheMachine : Prop :=
  (∀ (s t : State) (buf : ByteBuffer), s.mem.s0 = some buf → buf.length ≤ s.cfg.bufmax →
    exec .bdeint s = .next t →
    ∃ u, exec .bint2 { t with mem := { t.mem with s0 := t.mem.d0, s1 := t.mem.d1 } } = .next u ∧
      u.code = 0#4 ∧ u.mem.d0 = some (buf.take (2 * (buf.length / 2)))) ∧
  (∀ (s t : State) (buf : ByteBuffer), s.mem.s0 = some buf → buf.length ≤ s.cfg.bufmax →
    exec .wdeint s = .next t → t.code = 0#4 →
    ∃ u, exec .wmerge { t with mem := { t.mem with s0 := t.mem.d0, s1 := t.mem.d1 } } = .next u ∧
      u.code = 0#4 ∧ u.mem.d0 = some buf)

/-! ### Bank splitter (42_bank_concat.md) and word merge (43_word_merge.md) -/

/-- R66 with R67: BCAT, in the source's two cases. -/
def Obligations.BankConcatCommandFollowsItsRule : Prop :=
  decode 0x00000009#32 = .ok .bcat ∧ ∀ s : State,
    (s.mem.s0 = none ∨ s.mem.s1 = none → exec .bcat s = .next { s with code := 1#4 }) ∧
    ∀ A B, s.mem.s0 = some A → s.mem.s1 = some B →
      (2 * s.cfg.cap < A.length + B.length → exec .bcat s = .next { s with code := 5#4 }) ∧
      (A.length + B.length ≤ 2 * s.cfg.cap →
        ∃ (bank0 : ByteBuffer) (bank1 : Option ByteBuffer) (t : State),
        (s.cfg.cap < A.length →
          bank0 = A.take s.cfg.cap ∧ bank1 = some (A.drop s.cfg.cap ++ B)) ∧
        (A.length ≤ s.cfg.cap → A.length + B.length ≤ s.cfg.cap →
          bank0 = A ++ B ∧ bank1 = none) ∧
        (A.length ≤ s.cfg.cap → s.cfg.cap < A.length + B.length →
          bank0 = A ++ B.take (B.length - (A.length + B.length - s.cfg.cap)) ∧
          bank1 = some (B.drop (B.length - (A.length + B.length - s.cfg.cap)))) ∧
        t = { s with
          mem := { s.mem with s0 := none, s1 := none, d0 := some bank0, d1 := bank1 }
          crc := none
          code := 0#4 } ∧
        exec .bcat s = .next t ∧
        statusWord t = if s.cfg.cap < A.length + B.length then 0x300#32 else 0x100#32)

/-- R68: the two cases of R66 are one cut of the concatenation at index CAP. -/
def Obligations.BankSplitIsOneCut : Prop :=
  ∀ (cap : Nat) (A B : ByteBuffer), A.length + B.length ≤ 2 * cap →
    bankSplit cap A B = bankCut cap A B ∧
    bankSplit cap A B =
      if A.length + B.length ≤ cap then (A ++ B, none)
      else ((A ++ B).take cap, some ((A ++ B).drop cap))

/-- R69: what holds after a successful BCAT. A missing bank1 counts as no bytes. -/
def Obligations.BanksHoldEveryByteWithinCapacity : Prop :=
  ∀ (s t : State) (A B : ByteBuffer), s.mem.s0 = some A → s.mem.s1 = some B →
    exec .bcat s = .next t → t.code = 0#4 →
    ∃ bank0, t.mem.d0 = some bank0 ∧
      bank0.length + (t.mem.d1.getD []).length = A.length + B.length ∧
      bank0.length ≤ s.cfg.cap ∧ (t.mem.d1.getD []).length ≤ s.cfg.cap ∧
      bank0 ++ t.mem.d1.getD [] = A ++ B ∧
      (t.mem.d1.isSome = true ↔ s.cfg.cap < A.length + B.length) ∧
      (t.mem.d1.isSome = true → bank0.length = s.cfg.cap ∧
        (t.mem.d1.getD []).length = A.length + B.length - s.cfg.cap ∧
        1 ≤ (t.mem.d1.getD []).length) ∧
      bankCount t = if s.cfg.cap < A.length + B.length then 2 else 1

/-- R41: after BCAT the outputs are the first bank as `prom`, then the second, if there is one, as
`prom1`. -/
def Obligations.BankOutputsAreNamedInOrder : Prop :=
  ∀ (s : State) (bank0 : ByteBuffer), s.mem.d0 = some bank0 →
    (s.mem.d1 = none → bankOutputs s = [("prom".toList, bank0)]) ∧
    (∀ bank1, s.mem.d1 = some bank1 →
      bankOutputs s = [("prom".toList, bank0), ("prom1".toList, bank1)])

/-- R70, and R71: WMERGE, in which CAP plays no part. -/
def Obligations.WordMergeCommandFollowsItsRule : Prop :=
  decode 0x0000000A#32 = .ok .wmerge ∧ ∀ s : State,
    (s.mem.s0 = none ∨ s.mem.s1 = none → exec .wmerge s = .next { s with code := 1#4 }) ∧
    ∀ A B, s.mem.s0 = some A → s.mem.s1 = some B →
      (A.length ≠ B.length ∨ A.length % 2 ≠ 0 → exec .wmerge s = .next { s with code := 4#4 }) ∧
      (A.length = B.length → A.length % 2 = 0 → s.cfg.bufmax < 2 * A.length →
        exec .wmerge s = .next { s with code := 3#4 }) ∧
      (A.length = B.length → A.length % 2 = 0 → 2 * A.length ≤ s.cfg.bufmax →
        ∃ (C : ByteBuffer) (t : State),
        C.length = 2 * A.length ∧
        (∀ k, k < A.length / 2 →
          C[4 * k]? = A[2 * k]? ∧ C[4 * k + 1]? = A[2 * k + 1]? ∧
          C[4 * k + 2]? = B[2 * k]? ∧ C[4 * k + 3]? = B[2 * k + 1]?) ∧
        t = { s with
          mem := { s.mem with s0 := none, s1 := none, d0 := some C, d1 := none }
          crc := none
          code := 0#4 } ∧
        exec .wmerge s = .next t ∧ statusWord t = 0x100#32)

/-! ### Patch overlay (44_patch.md) and padding fill (45_pad.md) -/

/-- R72: PATCH. -/
def Obligations.PatchCommandFollowsItsRule : Prop :=
  decode 0x0000000B#32 = .ok .patch ∧ ∀ s : State,
    (s.mem.s0 = none ∨ s.mem.s1 = none → exec .patch s = .next { s with code := 1#4 }) ∧
    ∀ base patch, s.mem.s0 = some base → s.mem.s1 = some patch →
      (patch.length < s.size.toNat ∨ base.length < s.size.toNat →
        exec .patch s = .next { s with code := 5#4 }) ∧
      (s.size.toNat ≤ patch.length → s.size.toNat ≤ base.length →
        ∃ (result : ByteBuffer) (t : State),
        result.length = base.length ∧
        (∀ i, i < s.size.toNat → result[i]? = patch[i]?) ∧
        (∀ i, s.size.toNat ≤ i → result[i]? = base[i]?) ∧
        t = { s with
          mem := { s.mem with s0 := none, s1 := none, d0 := some result, d1 := none }
          crc := none
          code := 0#4 } ∧
        exec .patch s = .next t ∧ statusWord t = 0x100#32)

/-- R73: the properties of the overlay. -/
def Obligations.OverlayPropertiesHold : Prop :=
  ∀ (base patch : ByteBuffer) (size : Nat), size ≤ patch.length → size ≤ base.length →
    (size = patch.length → size = base.length → overlay base patch size = patch) ∧
    (size = 0 → overlay base patch size = base) ∧
    (overlay base patch size).length = base.length ∧
    (overlay base patch size).take size = patch.take size ∧
    (overlay base patch size).drop size = base.drop size ∧
    overlay (overlay base patch size) patch size = overlay base patch size

/-- R72 in the memory primitives of R9: the overlay is one MemWrite at index 0 of the patch's first bytes,
which one MemRead of S1 at index 0 gives. -/
def Obligations.OverlayIsOneMemoryWrite : Prop :=
  ∀ (m : Memory) (base patch : ByteBuffer) (size : Nat), m.s1 = some patch →
    size ≤ patch.length → size ≤ base.length →
    ∃ v, memRead m (.src .s1) 0 size = some v ∧ overlay base patch size = memWrite base 0 v

/-- R74: PAD. The clause for AllocationFailure is limited to SIZE not below the length, as the order of
R74's checks has it. -/
def Obligations.PadCommandFollowsItsRule : Prop :=
  decode 0x0000000C#32 = .ok .pad ∧ ∀ s : State,
    (s.mem.s0 = none → exec .pad s = .next { s with code := 1#4 }) ∧
    ∀ buf, s.mem.s0 = some buf →
      (s.size.toNat < buf.length → exec .pad s = .next { s with code := 5#4 }) ∧
      (buf.length ≤ s.size.toNat → s.cfg.bufmax < s.size.toNat →
        exec .pad s = .next { s with code := 3#4 }) ∧
      (buf.length ≤ s.size.toNat → s.size.toNat ≤ s.cfg.bufmax →
        ∃ (buf' : ByteBuffer) (t : State),
        buf'.length = s.size.toNat ∧
        (∀ i, i < buf.length → buf'[i]? = buf[i]?) ∧
        (∀ i, buf.length ≤ i → i < s.size.toNat → buf'[i]? = some s.fill) ∧
        t = { s with
          mem := { s.mem with s0 := none, d0 := some buf', d1 := none }
          crc := none
          code := 0#4 } ∧
        exec .pad s = .next t ∧ statusWord t = 0x100#32)

/-- R75: the properties of padding. -/
def Obligations.PadPropertiesHold : Prop :=
  ∀ (buf : ByteBuffer) (t1 : Nat) (v : Byte), buf.length ≤ t1 →
    (t1 = buf.length → padTo buf t1 v = buf) ∧
    (padTo buf t1 v).length = t1 ∧
    (padTo buf t1 v).take buf.length = buf ∧
    (∀ i, buf.length ≤ i → i < t1 → (padTo buf t1 v)[i]? = some v) ∧
    (∀ t2, t1 ≤ t2 → padTo (padTo buf t1 v) t2 v = padTo buf t2 v)

/-! ### The whole machine -/

/-- The invariant of 10_state.md section 7 (every buffer in a slot has `len ≤ BUFMAX`), with R18's codes
and the constraints of R5 and R7, is kept by every step, from every state that meets it. -/
def Obligations.StepKeepsStateWellFormed : Prop :=
  ∀ s t : State, stateWf s = true → step s = .next t → stateWf t = true

/-- The state after reset meets the invariant, for every legal configuration. -/
def Obligations.ResetStateIsWellFormed : Prop :=
  stateWf State.reset = true ∧ ∀ c : Config, c.wf = true → stateWf (State.resetWith c) = true

/-- R19 to R21, R97: SEED, SIZE and FILL change only by the host's write to that register or by reset; the
parameters CAP and BUFMAX never change. -/
def Obligations.ParametersChangeOnlyByTheirWrite : Prop :=
  ∀ (s t : State) (e : Event) (rest : List Event), s.pending = e :: rest → step s = .next t →
    t.cfg = s.cfg ∧ t.pending = rest ∧
    ((∀ v, e ≠ .action (.wr .seed v)) → e ≠ .reset → t.seed = s.seed) ∧
    ((∀ v, e ≠ .action (.wr .size v)) → e ≠ .reset → t.size = s.size) ∧
    ((∀ v, e ≠ .action (.wr .fill v)) → e ≠ .reset → t.fill = s.fill)

/-- R15, R22, R88, R92: nothing but a command or a reset changes a destination slot, CRC or CODE. -/
def Obligations.ResultsChangeOnlyByCommandOrReset : Prop :=
  ∀ (s t : State) (e : Event) (rest : List Event), s.pending = e :: rest → step s = .next t →
    (∀ w, e ≠ .action (.wr .cmd w)) → e ≠ .reset →
    t.mem.d0 = s.mem.d0 ∧ t.mem.d1 = s.mem.d1 ∧ t.crc = s.crc ∧ t.code = s.code

/-- R14: a source slot changes only by a LOAD of it, which puts its buffer there, or by being emptied by a
successful command that reads it or by a reset; no command writes bytes into a source slot. -/
def Obligations.SourceSlotChangesOnlyByLoadOrEmptying : Prop :=
  ∀ (s t : State) (n : SrcSlot), step s = .next t →
    srcSlot t.mem n = srcSlot s.mem n ∨
    (∃ b rest, s.pending = .action (.load n b) :: rest ∧ srcSlot t.mem n = some b) ∨
    (∃ w i rest, s.pending = .action (.wr .cmd w) :: rest ∧ decode w = .ok i ∧
      n ∈ sourceSlots i ∧ t.code = 0#4 ∧ srcSlot t.mem n = none) ∨
    (∃ rest, s.pending = .reset :: rest ∧ srcSlot t.mem n = none)

/-- R100: a run that is not refused ends with its list exhausted, and it stays in that end state however
many more steps are taken, which is the model's choice of what an idle step is (log 3), after R89. A
run is stuck exactly where the host fails in a duty of 20_memory.md section 7; one that starts in a
state that meets the invariant ends in one. -/
def Obligations.RunEndsWhenItsListDoes : Prop :=
  (∀ s t : State, runAll s = .next t →
    t.pending = [] ∧ (stateWf s = true → stateWf t = true) ∧
    ∀ k, runFor (s.pending.length + k) s = .next t) ∧
  ∀ s : State, SafeRun s ↔ keepsDuties s.pending.length s = true

/-- A host that keeps to its duties (20_memory.md section 7) is never stuck, whatever else it does: from
every state that meets the invariant, the next event has a next state, and that state meets the
invariant, if a LOAD is of at most BUFMAX bytes (R36), a SAVE is of a slot that holds a buffer (R37),
and CRC is read only while it has a value (R39). Such a SAVE and such an RD may come any number of
times; any word may be written to CMD, and the platform may reset. -/
def Obligations.CarefulHostIsNeverStuck : Prop :=
  ∀ (s : State) (e : Event) (rest : List Event), stateWf s = true → s.pending = e :: rest →
    e.wf s.cfg = true →
    (∀ n, e = .action (.save n) → ∃ b, dstSlot s.mem n = some b) →
    (e = .action (.rd .crc) → ∃ w, s.crc = some w) →
    ∃ t, step s = .next t ∧ stateWf t = true

/-! ### The host's report (20_memory.md R40) -/

/-- R40: the report is the path, ` size:`, decimal digits that read back as the length, ` crc32:0x` and
eight lowercase hex digits that read back as the checksum. After a CKSUM, which succeeds when S0 holds a
buffer, the length is that of the buffer that was in S0 and the checksum is what CRC holds; a CKSUM
that finds no buffer has no report. -/
def Obligations.ReportLineReadsBack : Prop :=
  (∀ (path : List Char) (len : Nat) (crc : Word), len < 2 ^ 32 →
    ∃ ds hs : List Char,
      checksumReport path len crc = path ++ " size:".toList ++ ds ++ " crc32:0x".toList ++ hs ∧
      (∀ c ∈ ds, '0' ≤ c ∧ c ≤ '9') ∧ ds ≠ [] ∧ (1 < ds.length → ds.head? ≠ some '0') ∧
      ds.foldl (fun acc c => 10 * acc + (c.toNat - 48)) 0 = len ∧
      hs.length = 8 ∧ (∀ c ∈ hs, ('0' ≤ c ∧ c ≤ '9') ∨ ('a' ≤ c ∧ c ≤ 'f')) ∧
      hs.foldl (fun acc c => 16 * acc + (if c.toNat < 58 then c.toNat - 48 else c.toNat - 87)) 0 =
        crc.toNat) ∧
  ∀ (path : List Char) (s : State),
    (∀ data, s.mem.s0 = some data → ∃ (t : State) (crc : Word),
      exec .cksum s = .next t ∧ t.code = 0#4 ∧ t.crc = some crc ∧
      reportOfCksum path s = some (checksumReport path data.length crc)) ∧
    (s.mem.s0 = none → reportOfCksum path s = none)
end

