-- ==== Sys2Proof/Laws/State.lean ====
section
/-!
SUPPORT. One lemma per field per update of the state: what `raise`, `commit`, `reply`, `resetHardware`
and `setSrc` leave in each field, and what each slot holds after them.
-/

namespace Sys2Proof.Machine

/-! ### raise (R86) -/

@[simp] theorem raise_mem (e : CmdError) (s : State) : (raise e s).mem = s.mem := rfl
@[simp] theorem raise_crc (e : CmdError) (s : State) : (raise e s).crc = s.crc := rfl
@[simp] theorem raise_code (e : CmdError) (s : State) : (raise e s).code = errorCode e := rfl
@[simp] theorem raise_seed (e : CmdError) (s : State) : (raise e s).seed = s.seed := rfl
@[simp] theorem raise_size (e : CmdError) (s : State) : (raise e s).size = s.size := rfl
@[simp] theorem raise_fill (e : CmdError) (s : State) : (raise e s).fill = s.fill := rfl
@[simp] theorem raise_cfg (e : CmdError) (s : State) : (raise e s).cfg = s.cfg := rfl
@[simp] theorem raise_pending (e : CmdError) (s : State) : (raise e s).pending = s.pending := rfl
@[simp] theorem raise_replies (e : CmdError) (s : State) : (raise e s).replies = s.replies := rfl

/-! ### commit (R48) -/

@[simp] theorem commit_d0 (ns : List SrcSlot) (r : Results) (s : State) :
    (commit ns r s).mem.d0 = r.d0 := rfl
@[simp] theorem commit_d1 (ns : List SrcSlot) (r : Results) (s : State) :
    (commit ns r s).mem.d1 = r.d1 := rfl
@[simp] theorem commit_crc (ns : List SrcSlot) (r : Results) (s : State) :
    (commit ns r s).crc = r.crc := rfl
@[simp] theorem commit_code (ns : List SrcSlot) (r : Results) (s : State) :
    (commit ns r s).code = 0#4 := rfl
@[simp] theorem commit_seed (ns : List SrcSlot) (r : Results) (s : State) :
    (commit ns r s).seed = s.seed := rfl
@[simp] theorem commit_size (ns : List SrcSlot) (r : Results) (s : State) :
    (commit ns r s).size = s.size := rfl
@[simp] theorem commit_fill (ns : List SrcSlot) (r : Results) (s : State) :
    (commit ns r s).fill = s.fill := rfl
@[simp] theorem commit_cfg (ns : List SrcSlot) (r : Results) (s : State) :
    (commit ns r s).cfg = s.cfg := rfl
@[simp] theorem commit_pending (ns : List SrcSlot) (r : Results) (s : State) :
    (commit ns r s).pending = s.pending := rfl
@[simp] theorem commit_replies (ns : List SrcSlot) (r : Results) (s : State) :
    (commit ns r s).replies = s.replies := rfl

/-! ### reply (R37, R39) -/

@[simp] theorem reply_mem (r : Reply) (s : State) : (reply r s).mem = s.mem := rfl
@[simp] theorem reply_crc (r : Reply) (s : State) : (reply r s).crc = s.crc := rfl
@[simp] theorem reply_code (r : Reply) (s : State) : (reply r s).code = s.code := rfl
@[simp] theorem reply_seed (r : Reply) (s : State) : (reply r s).seed = s.seed := rfl
@[simp] theorem reply_size (r : Reply) (s : State) : (reply r s).size = s.size := rfl
@[simp] theorem reply_fill (r : Reply) (s : State) : (reply r s).fill = s.fill := rfl
@[simp] theorem reply_cfg (r : Reply) (s : State) : (reply r s).cfg = s.cfg := rfl
@[simp] theorem reply_pending (r : Reply) (s : State) : (reply r s).pending = s.pending := rfl
@[simp] theorem reply_replies (r : Reply) (s : State) : (reply r s).replies = s.replies ++ [r] := rfl

/-! ### resetHardware (R92) -/

@[simp] theorem resetHardware_mem (s : State) : (resetHardware s).mem = Memory.empty := rfl
@[simp] theorem resetHardware_crc (s : State) : (resetHardware s).crc = none := rfl
@[simp] theorem resetHardware_code (s : State) : (resetHardware s).code = 0#4 := rfl
@[simp] theorem resetHardware_seed (s : State) : (resetHardware s).seed = 0#32 := rfl
@[simp] theorem resetHardware_size (s : State) : (resetHardware s).size = 0#32 := rfl
@[simp] theorem resetHardware_fill (s : State) : (resetHardware s).fill = 0#8 := rfl
@[simp] theorem resetHardware_cfg (s : State) : (resetHardware s).cfg = s.cfg := rfl
@[simp] theorem resetHardware_pending (s : State) : (resetHardware s).pending = s.pending := rfl
@[simp] theorem resetHardware_replies (s : State) : (resetHardware s).replies = s.replies := rfl

/-! ### setSrc and consume (R36, R48) -/

@[simp] theorem setSrc_d0 (m : Memory) (n : SrcSlot) (v : Option ByteBuffer) :
    (setSrc m n v).d0 = m.d0 := by cases n <;> rfl
@[simp] theorem setSrc_d1 (m : Memory) (n : SrcSlot) (v : Option ByteBuffer) :
    (setSrc m n v).d1 = m.d1 := by cases n <;> rfl
@[simp] theorem srcSlot_setSrc_same (m : Memory) (n : SrcSlot) (v : Option ByteBuffer) :
    srcSlot (setSrc m n v) n = v := by cases n <;> rfl

/-- A write to one source slot leaves every other one alone. -/
theorem srcSlot_setSrc_other (m : Memory) (n k : SrcSlot) (v : Option ByteBuffer) (h : k ≠ n) :
    srcSlot (setSrc m n v) k = srcSlot m k := by
  cases n <;> cases k <;> first | rfl | exact absurd rfl h

@[simp] theorem consume_nil (m : Memory) : consume m [] = m := rfl
@[simp] theorem consume_cons (m : Memory) (n : SrcSlot) (ns : List SrcSlot) :
    consume m (n :: ns) = consume (setSrc m n none) ns := rfl

/-- A slot that is consumed holds `none` afterwards; every other source slot is as before. -/
theorem srcSlot_consume (m : Memory) (ns : List SrcSlot) (k : SrcSlot) :
    srcSlot (consume m ns) k = if k ∈ ns then none else srcSlot m k := by
  induction ns generalizing m with
  | nil => simp
  | cons n ns ih =>
    rw [consume_cons, ih]
    by_cases hk : k ∈ ns
    · simp [hk]
    · by_cases hn : k = n
      · subst hn; simp [hk]
      · simp [hk, hn, srcSlot_setSrc_other m n k none hn]

@[simp] theorem srcSlot_commit (ns : List SrcSlot) (r : Results) (s : State) (k : SrcSlot) :
    srcSlot (commit ns r s).mem k = if k ∈ ns then none else srcSlot s.mem k := by
  rw [← srcSlot_consume]; cases k <;> rfl

@[simp] theorem dstSlot_d0 (m : Memory) : dstSlot m .d0 = m.d0 := rfl
@[simp] theorem dstSlot_d1 (m : Memory) : dstSlot m .d1 = m.d1 := rfl

end Sys2Proof.Machine
end

