-- ==== Sys2Proof/Laws/Ops.lean ====
section
/-!
SUPPORT. One lemma per shared operation of a command that says once everything it can do: the checks
(`require`, `allocate`, `operand`) and the end (`finish`).
-/

namespace Sys2Proof.Machine

/-- A check passes exactly when its condition holds. -/
theorem require_ok_iff (p : Bool) (e : CmdError) (u : Unit) : require p e = .ok u ↔ p = true := by
  cases p <;> simp [require]

/-- A check that fails raises its own error and no other. -/
theorem require_error_iff (p : Bool) (e e' : CmdError) :
    require p e = .error e' ↔ p = false ∧ e' = e := by
  cases p <;> simp [require, eq_comm]

/-- The allocation check passes exactly when the result fits BUFMAX (R83). -/
theorem allocate_ok_iff (s : State) (n : Nat) (u : Unit) :
    allocate s n = .ok u ↔ n ≤ s.cfg.bufmax := by
  simp [allocate, require_ok_iff]

/-- A result that does not fit BUFMAX raises AllocationFailure (R83). -/
theorem allocate_error_iff (s : State) (n : Nat) (e : CmdError) :
    allocate s n = .error e ↔ s.cfg.bufmax < n ∧ e = .allocationFailure := by
  simp [allocate, require_error_iff]

/-- An operand is there exactly when its slot holds that buffer (R78). -/
theorem operand_ok_iff (s : State) (n : SrcSlot) (b : ByteBuffer) :
    operand s n = .ok b ↔ srcSlot s.mem n = some b := by
  unfold operand
  cases srcSlot s.mem n <;> simp

/-- A missing operand raises InputNotFound, whatever the slot (R78, R84). -/
theorem operand_error_iff (s : State) (n : SrcSlot) (e : CmdError) :
    operand s n = .error e ↔ srcSlot s.mem n = none ∧ e = .inputNotFound := by
  unfold operand
  cases srcSlot s.mem n <;> simp [eq_comm]

@[simp] theorem operand_of_some {s : State} {n : SrcSlot} {b : ByteBuffer}
    (h : srcSlot s.mem n = some b) : operand s n = .ok b := (operand_ok_iff s n b).2 h

@[simp] theorem operand_of_none {s : State} {n : SrcSlot}
    (h : srcSlot s.mem n = none) : operand s n = .error .inputNotFound :=
  (operand_error_iff s n _).2 ⟨h, rfl⟩

@[simp] theorem finish_error (ns : List SrcSlot) (s : State) (e : CmdError) :
    finish ns s (.error e) = .next (raise e s) := rfl

@[simp] theorem finish_ok (ns : List SrcSlot) (s : State) (r : Results) :
    finish ns s (.ok r) = .next (commit ns r s) := rfl

/-- All that the end of a command can do: raise the error that a check gave, or commit (R47, R48, R86). -/
theorem finish_cases (ns : List SrcSlot) (s t : State) (x : Except CmdError Results)
    (h : finish ns s x = .next t) :
    (∃ e, x = .error e ∧ t = raise e s) ∨ (∃ r, x = .ok r ∧ t = commit ns r s) := by
  cases x with
  | error e => exact .inl ⟨e, rfl, by simpa using h.symm⟩
  | ok r => exact .inr ⟨r, rfl, by simpa using h.symm⟩

end Sys2Proof.Machine
end

