-- ==== Sys2Proof/Laws/Commands.lean ====
section
/-!
SUPPORT. Every command in one form: its checks and results, then the shared end. One lemma per command
says when it succeeds and with what results, one when it fails and with which error. Later proofs cite
these and unfold no meaning.
-/

namespace Sys2Proof.Machine

/-- The checks and results of each command. -/
def resultsOf : Instr → State → Except CmdError Results
  | .cksum => cksumResults
  | .esplit => esplitResults
  | .bdeint => bdeintResults
  | .wdeint => wdeintResults
  | .bflip => bflipResults
  | .bint2 => bint2Results
  | .bint4 => bint4Results
  | .swaph => swaphResults
  | .bcat => bcatResults
  | .wmerge => wmergeResults
  | .patch => patchResults
  | .pad => padResults

/-- Every command is its checks and results, then the shared end of R47. -/
theorem exec_eq_finish (i : Instr) (s : State) :
    exec i s = finish (sourceSlots i) s (resultsOf i s) := by cases i <;> rfl

/-- All that a command can do: raise the error its checks give, or commit its results. -/
theorem exec_cases (i : Instr) (s t : State) (h : exec i s = .next t) :
    (∃ e, resultsOf i s = .error e ∧ t = raise e s) ∨
      (∃ r, resultsOf i s = .ok r ∧ t = commit (sourceSlots i) r s) :=
  finish_cases _ _ _ _ (exec_eq_finish i s ▸ h)

/-- A sequence of checks passes exactly when the first passes and the rest pass. -/
theorem bind_ok_iff {α β : Type} (x : Except CmdError α) (f : α → Except CmdError β) (b : β) :
    (x >>= f) = .ok b ↔ ∃ a, x = .ok a ∧ f a = .ok b := by
  cases x <;> simp [bind, Except.bind]

/-- A sequence of checks raises an error exactly when the first raises it, or passes and the rest do. -/
theorem bind_error_iff {α β : Type} (x : Except CmdError α) (f : α → Except CmdError β)
    (e : CmdError) :
    (x >>= f) = .error e ↔ x = .error e ∨ ∃ a, x = .ok a ∧ f a = .error e := by
  cases x <;> simp [bind, Except.bind]

theorem pure_ok_iff (r r' : Results) : (pure r : Except CmdError Results) = .ok r' ↔ r' = r := by
  simp [pure, Except.pure, eq_comm]

theorem pure_error_iff (r : Results) (e : CmdError) :
    (pure r : Except CmdError Results) = .error e ↔ False := by
  simp [pure, Except.pure]

theorem exists_unit (p : Prop) : (∃ _ : Unit, p) ↔ p := by simp

theorem cksumResults_ok_iff (s : State) (r : Results) :
    cksumResults s = .ok r ↔
      ∃ data, s.mem.s0 = some data ∧ r = { crc := some (crcUpdate s.seed data) } := by
  simp only [cksumResults, bind_ok_iff, operand_ok_iff, pure_ok_iff, srcSlot, seedOperand]

theorem cksumResults_error_iff (s : State) (e : CmdError) :
    cksumResults s = .error e ↔ s.mem.s0 = none ∧ e = .inputNotFound := by
  simp only [cksumResults, bind_error_iff, operand_error_iff, pure_error_iff, srcSlot]
  simp

/-- The report of a CKSUM that finds a buffer, as the length and the checksum of that buffer (R40, R53). -/
theorem reportOfCksum_of_some {s : State} {data : ByteBuffer} (h : s.mem.s0 = some data)
    (path : List Char) :
    reportOfCksum path s = some (checksumReport path data.length (crcUpdate s.seed data)) := by
  have hr : cksumResults s = .ok { crc := some (crcUpdate s.seed data) } :=
    (cksumResults_ok_iff _ _).2 ⟨data, h, rfl⟩
  have he : exec .cksum s = finish (sourceSlots .cksum) s (cksumResults s) := exec_eq_finish .cksum s
  simp [reportOfCksum, he, hr, h, finish, commit]

/-- A CKSUM that finds S0 empty has no report (R40, R78). -/
theorem reportOfCksum_of_none {s : State} (h : s.mem.s0 = none) (path : List Char) :
    reportOfCksum path s = none := by
  simp [reportOfCksum, h]

theorem esplitResults_ok_iff (s : State) (r : Results) :
    esplitResults s = .ok r ↔ ∃ buf, s.mem.s0 = some buf ∧
      r = { d0 := some (equalSplit buf).1, d1 := some (equalSplit buf).2 } := by
  simp only [esplitResults, bind_ok_iff, operand_ok_iff, pure_ok_iff, srcSlot]

theorem esplitResults_error_iff (s : State) (e : CmdError) :
    esplitResults s = .error e ↔ s.mem.s0 = none ∧ e = .inputNotFound := by
  simp only [esplitResults, bind_error_iff, operand_error_iff, pure_error_iff, srcSlot]
  simp

theorem bdeintResults_ok_iff (s : State) (r : Results) :
    bdeintResults s = .ok r ↔ ∃ buf, s.mem.s0 = some buf ∧
      r = { d0 := some (byteDeinterleave buf).1, d1 := some (byteDeinterleave buf).2 } := by
  simp only [bdeintResults, bind_ok_iff, operand_ok_iff, pure_ok_iff, srcSlot]

theorem bdeintResults_error_iff (s : State) (e : CmdError) :
    bdeintResults s = .error e ↔ s.mem.s0 = none ∧ e = .inputNotFound := by
  simp only [bdeintResults, bind_error_iff, operand_error_iff, pure_error_iff, srcSlot]
  simp

theorem wdeintResults_ok_iff (s : State) (r : Results) :
    wdeintResults s = .ok r ↔ ∃ buf, s.mem.s0 = some buf ∧ buf.length % 4 = 0 ∧
      r = { d0 := some (wordDeinterleave buf).1, d1 := some (wordDeinterleave buf).2 } := by
  simp only [wdeintResults, bind_ok_iff, operand_ok_iff, require_ok_iff, pure_ok_iff, srcSlot,
    exists_unit, beq_iff_eq]

theorem wdeintResults_error_iff (s : State) (e : CmdError) :
    wdeintResults s = .error e ↔ (s.mem.s0 = none ∧ e = .inputNotFound) ∨
      ∃ buf, s.mem.s0 = some buf ∧ buf.length % 4 ≠ 0 ∧ e = .sizeMismatch := by
  simp only [wdeintResults, bind_error_iff, operand_ok_iff, operand_error_iff, require_error_iff,
    pure_error_iff, srcSlot]
  simp

theorem bflipResults_ok_iff (s : State) (r : Results) :
    bflipResults s = .ok r ↔ ∃ buf, s.mem.s0 = some buf ∧ buf.length % 2 = 0 ∧
      r = { d0 := some (byteFlip buf) } := by
  simp only [bflipResults, bind_ok_iff, operand_ok_iff, require_ok_iff, pure_ok_iff, srcSlot,
    exists_unit, beq_iff_eq]

theorem bflipResults_error_iff (s : State) (e : CmdError) :
    bflipResults s = .error e ↔ (s.mem.s0 = none ∧ e = .inputNotFound) ∨
      ∃ buf, s.mem.s0 = some buf ∧ buf.length % 2 ≠ 0 ∧ e = .sizeMismatch := by
  simp only [bflipResults, bind_error_iff, operand_ok_iff, operand_error_iff, require_error_iff,
    pure_error_iff, srcSlot]
  simp

theorem bint2Results_ok_iff (s : State) (r : Results) :
    bint2Results s = .ok r ↔ ∃ a, s.mem.s0 = some a ∧ ∃ b, s.mem.s1 = some b ∧
      a.length = b.length ∧ 2 * a.length ≤ s.cfg.bufmax ∧
      r = { d0 := some (byteInterleave2 a b) } := by
  simp only [bint2Results, bind_ok_iff, operand_ok_iff, require_ok_iff, allocate_ok_iff, pure_ok_iff,
    srcSlot, exists_unit, beq_iff_eq]

theorem bint2Results_error_iff (s : State) (e : CmdError) :
    bint2Results s = .error e ↔
      ((s.mem.s0 = none ∨ s.mem.s1 = none) ∧ e = .inputNotFound) ∨
      ∃ a, s.mem.s0 = some a ∧ ∃ b, s.mem.s1 = some b ∧
        ((a.length ≠ b.length ∧ e = .sizeMismatch) ∨
          (a.length = b.length ∧ s.cfg.bufmax < 2 * a.length ∧ e = .allocationFailure)) := by
  simp only [bint2Results, bind_error_iff, operand_ok_iff, operand_error_iff, require_ok_iff,
    require_error_iff, allocate_error_iff, exists_unit, pure_error_iff, srcSlot]
  cases s.mem.s0 <;> cases s.mem.s1 <;> simp

theorem bint4Results_ok_iff (s : State) (r : Results) :
    bint4Results s = .ok r ↔ ∃ a, s.mem.s0 = some a ∧ ∃ b, s.mem.s1 = some b ∧
      ∃ c, s.mem.s2 = some c ∧ ∃ d, s.mem.s3 = some d ∧
      ((a.length = b.length ∧ b.length = c.length) ∧ c.length = d.length) ∧
      4 * a.length ≤ s.cfg.bufmax ∧ r = { d0 := some (byteInterleave4 a b c d) } := by
  simp only [bint4Results, bind_ok_iff, operand_ok_iff, require_ok_iff, allocate_ok_iff, pure_ok_iff,
    srcSlot, exists_unit, beq_iff_eq, Bool.and_eq_true]

theorem bint4Results_error_iff (s : State) (e : CmdError) :
    bint4Results s = .error e ↔
      ((s.mem.s0 = none ∨ s.mem.s1 = none ∨ s.mem.s2 = none ∨ s.mem.s3 = none) ∧
        e = .inputNotFound) ∨
      ∃ a, s.mem.s0 = some a ∧ ∃ b, s.mem.s1 = some b ∧ ∃ c, s.mem.s2 = some c ∧
        ∃ d, s.mem.s3 = some d ∧
        ((¬ ((a.length = b.length ∧ b.length = c.length) ∧ c.length = d.length) ∧
            e = .sizeMismatch) ∨
          (((a.length = b.length ∧ b.length = c.length) ∧ c.length = d.length) ∧
            s.cfg.bufmax < 4 * a.length ∧ e = .allocationFailure)) := by
  simp only [bint4Results, bind_error_iff, operand_ok_iff, operand_error_iff, require_ok_iff,
    require_error_iff, allocate_error_iff, exists_unit, pure_error_iff, srcSlot]
  cases s.mem.s0 <;> cases s.mem.s1 <;> cases s.mem.s2 <;> cases s.mem.s3 <;>
    simp

theorem swaphResults_ok_iff (s : State) (r : Results) :
    swaphResults s = .ok r ↔ ∃ buf, s.mem.s0 = some buf ∧ r = { d0 := some (swapHalves buf) } := by
  simp only [swaphResults, bind_ok_iff, operand_ok_iff, pure_ok_iff, srcSlot]

theorem swaphResults_error_iff (s : State) (e : CmdError) :
    swaphResults s = .error e ↔ s.mem.s0 = none ∧ e = .inputNotFound := by
  simp only [swaphResults, bind_error_iff, operand_error_iff, pure_error_iff, srcSlot]
  simp

theorem bcatResults_ok_iff (s : State) (r : Results) :
    bcatResults s = .ok r ↔ ∃ a, s.mem.s0 = some a ∧ ∃ b, s.mem.s1 = some b ∧
      a.length + b.length ≤ 2 * s.cfg.cap ∧
      r = { d0 := some (bankSplit s.cfg.cap a b).1, d1 := (bankSplit s.cfg.cap a b).2 } := by
  simp only [bcatResults, bind_ok_iff, operand_ok_iff, require_ok_iff, pure_ok_iff, srcSlot,
    exists_unit, decide_eq_true_eq]

theorem bcatResults_error_iff (s : State) (e : CmdError) :
    bcatResults s = .error e ↔
      ((s.mem.s0 = none ∨ s.mem.s1 = none) ∧ e = .inputNotFound) ∨
      ∃ a, s.mem.s0 = some a ∧ ∃ b, s.mem.s1 = some b ∧
        2 * s.cfg.cap < a.length + b.length ∧ e = .sizeOutOfRange := by
  simp only [bcatResults, bind_error_iff, operand_ok_iff, operand_error_iff, require_error_iff,
    pure_error_iff, srcSlot]
  cases s.mem.s0 <;> cases s.mem.s1 <;> simp

theorem wmergeResults_ok_iff (s : State) (r : Results) :
    wmergeResults s = .ok r ↔ ∃ a, s.mem.s0 = some a ∧ ∃ b, s.mem.s1 = some b ∧
      a.length = b.length ∧ a.length % 2 = 0 ∧ 2 * a.length ≤ s.cfg.bufmax ∧
      r = { d0 := some (wordMerge a b) } := by
  simp only [wmergeResults, bind_ok_iff, operand_ok_iff, require_ok_iff, allocate_ok_iff, pure_ok_iff,
    srcSlot, exists_unit, beq_iff_eq]

theorem wmergeResults_error_iff (s : State) (e : CmdError) :
    wmergeResults s = .error e ↔
      ((s.mem.s0 = none ∨ s.mem.s1 = none) ∧ e = .inputNotFound) ∨
      ∃ a, s.mem.s0 = some a ∧ ∃ b, s.mem.s1 = some b ∧
        (((a.length ≠ b.length ∨ a.length % 2 ≠ 0) ∧ e = .sizeMismatch) ∨
          (a.length = b.length ∧ a.length % 2 = 0 ∧ s.cfg.bufmax < 2 * a.length ∧
            e = .allocationFailure)) := by
  simp only [wmergeResults, bind_error_iff, operand_ok_iff, operand_error_iff, require_ok_iff,
    require_error_iff, allocate_error_iff, exists_unit, pure_error_iff, srcSlot]
  cases s.mem.s0 <;> cases s.mem.s1 <;> simp
  tauto

theorem patchResults_ok_iff (s : State) (r : Results) :
    patchResults s = .ok r ↔ ∃ base, s.mem.s0 = some base ∧ ∃ patch, s.mem.s1 = some patch ∧
      s.size.toNat ≤ patch.length ∧ s.size.toNat ≤ base.length ∧
      r = { d0 := some (overlay base patch s.size.toNat) } := by
  simp only [patchResults, bind_ok_iff, operand_ok_iff, require_ok_iff, pure_ok_iff, srcSlot,
    exists_unit, decide_eq_true_eq]
  simp only [sizeOperand]

theorem patchResults_error_iff (s : State) (e : CmdError) :
    patchResults s = .error e ↔
      ((s.mem.s0 = none ∨ s.mem.s1 = none) ∧ e = .inputNotFound) ∨
      ∃ base, s.mem.s0 = some base ∧ ∃ patch, s.mem.s1 = some patch ∧
        (patch.length < s.size.toNat ∨ base.length < s.size.toNat) ∧ e = .sizeOutOfRange := by
  simp only [patchResults, bind_error_iff, operand_ok_iff, operand_error_iff, require_ok_iff,
    require_error_iff, exists_unit, pure_error_iff, srcSlot, decide_eq_true_eq, decide_eq_false_iff_not,
    not_le]
  simp only [sizeOperand]
  cases s.mem.s0 <;> cases s.mem.s1 <;> simp
  constructor
  · rintro (⟨h, rfl⟩ | ⟨-, h, rfl⟩)
    · exact ⟨.inl h, rfl⟩
    · exact ⟨.inr h, rfl⟩
  · rintro ⟨h, rfl⟩
    rcases Nat.lt_or_ge (List.length _) s.size.toNat with hp | hp
    · exact .inl ⟨hp, rfl⟩
    · exact .inr ⟨hp, h.resolve_left (Nat.not_lt.2 hp), rfl⟩

theorem padResults_ok_iff (s : State) (r : Results) :
    padResults s = .ok r ↔ ∃ buf, s.mem.s0 = some buf ∧ buf.length ≤ s.size.toNat ∧
      s.size.toNat ≤ s.cfg.bufmax ∧ r = { d0 := some (padTo buf s.size.toNat s.fill) } := by
  simp only [padResults, bind_ok_iff, operand_ok_iff, require_ok_iff, allocate_ok_iff, pure_ok_iff,
    srcSlot, exists_unit, decide_eq_true_eq]
  simp only [sizeOperand, fillOperand]

theorem padResults_error_iff (s : State) (e : CmdError) :
    padResults s = .error e ↔ (s.mem.s0 = none ∧ e = .inputNotFound) ∨
      ∃ buf, s.mem.s0 = some buf ∧
        ((s.size.toNat < buf.length ∧ e = .sizeOutOfRange) ∨
          (buf.length ≤ s.size.toNat ∧ s.cfg.bufmax < s.size.toNat ∧ e = .allocationFailure)) := by
  simp only [padResults, bind_error_iff, operand_ok_iff, operand_error_iff, require_ok_iff,
    require_error_iff, allocate_error_iff, exists_unit, pure_error_iff, srcSlot, decide_eq_true_eq,
    decide_eq_false_iff_not, not_le]
  simp only [sizeOperand]
  cases s.mem.s0 <;> simp

end Sys2Proof.Machine
end

