-- ==== Sys2Proof/Laws/Flags.lean ====
section
/-!
SUPPORT. STATUS as a number, once: later proofs cite this and do not take the word apart.
-/

namespace Sys2Proof.Machine

/-- STATUS after a command that ended with OK is made of the three valid bits alone (R18). -/
theorem statusWord_of_ok {s : State} (h : s.code = 0#4) :
    statusWord s = BitVec.ofNat 32 ((if s.mem.d0.isSome then 0x100 else 0) +
      (if s.mem.d1.isSome then 0x200 else 0) + (if s.crc.isSome then 0x400 else 0)) := by
  unfold statusWord crcv d0v d1v
  rw [h]
  generalize s.mem.d0.isSome = x, s.mem.d1.isSome = y, s.crc.isSome = z
  revert x y z
  decide

/-- The code of an error is legal for every error but IoFailure, which no command raises (R79). -/
theorem codeLegal_errorCode {e : CmdError} (h : e ≠ .ioFailure) : codeLegal (errorCode e) = true := by
  cases e <;> first | rfl | exact absurd rfl h

/-- No error has the code of OK (R76, R77). -/
theorem errorCode_ne_ok (e : CmdError) : errorCode e ≠ 0#4 := by cases e <;> decide

end Sys2Proof.Machine
end

