-- ==== Sys2Proof/Laws/Memory.lean ====
section
/-!
SUPPORT. The memory operations keep the form of memory, and the laws of reading and writing bytes of a
buffer.
-/

namespace Sys2Proof.Machine

@[simp] theorem slotWf_none (n : Nat) : slotWf n none = true := rfl
@[simp] theorem slotWf_some (n : Nat) (b : ByteBuffer) :
    slotWf n (some b) = decide (b.length ≤ n) := rfl

/-- The form of memory, slot by slot. -/
theorem memory_wf_iff (n : Nat) (m : Memory) :
    m.wf n = true ↔ (∀ k, slotWf n (srcSlot m k) = true) ∧ (∀ k, slotWf n (dstSlot m k) = true) := by
  constructor
  · intro h
    simp only [Memory.wf, Bool.and_eq_true] at h
    obtain ⟨⟨⟨⟨⟨h0, h1⟩, h2⟩, h3⟩, h4⟩, h5⟩ := h
    exact ⟨fun k => by cases k <;> assumption, fun k => by cases k <;> assumption⟩
  · rintro ⟨hs, hd⟩
    have h0 := hs .s0
    have h1 := hs .s1
    have h2 := hs .s2
    have h3 := hs .s3
    have h4 := hd .d0
    have h5 := hd .d1
    simp only [srcSlot, dstSlot] at h0 h1 h2 h3 h4 h5
    simp [Memory.wf, h0, h1, h2, h3, h4, h5]

/-- Memory after reset has its form, whatever BUFMAX is (R25). -/
@[simp] theorem memory_empty_wf (n : Nat) : Memory.empty.wf n = true := rfl

/-- A write to a source slot keeps the form when the buffer fits (R36). -/
theorem setSrc_wf {n : Nat} {m : Memory} (k : SrcSlot) {v : Option ByteBuffer}
    (hm : m.wf n = true) (hv : slotWf n v = true) : (setSrc m k v).wf n = true := by
  rw [memory_wf_iff] at hm ⊢
  refine ⟨fun j => ?_, fun j => ?_⟩
  · by_cases h : j = k
    · subst h; simpa using hv
    · rw [srcSlot_setSrc_other m k j v h]; exact hm.1 j
  · cases j with
    | d0 => simpa using hm.2 .d0
    | d1 => simpa using hm.2 .d1

/-- Emptying the slots a command read keeps the form (R48). -/
theorem consume_wf {n : Nat} {m : Memory} (ns : List SrcSlot) (hm : m.wf n = true) :
    (consume m ns).wf n = true := by
  induction ns generalizing m with
  | nil => simpa using hm
  | cons k ns ih => exact ih (setSrc_wf k hm rfl)

/-- A commit keeps the form when both results fit (R48). -/
theorem commit_wf {n : Nat} {s : State} (ns : List SrcSlot) (r : Results) (hm : s.mem.wf n = true)
    (h0 : slotWf n r.d0 = true) (h1 : slotWf n r.d1 = true) : (commit ns r s).mem.wf n = true := by
  have hc := consume_wf ns hm
  simp only [Memory.wf, Bool.and_eq_true] at hc
  simp [commit, Memory.wf, hc, h0, h1]

/-- A slice is as long as its range (R9). -/
theorem slice_length (b : ByteBuffer) (i j : Nat) (hj : j ≤ b.length) :
    (slice b i j).length = j - i := by
  simp [slice, Nat.min_eq_left hj]

/-- Byte `k` of `b[i..j)` is byte `i + k` of `b` (R9). -/
theorem slice_getElem? (b : ByteBuffer) (i j k : Nat) (hk : i + k < j) :
    (slice b i j)[k]? = b[i + k]? := by
  simp [slice, List.getElem?_drop, hk]

/-- A write of bytes inside a buffer keeps its length (R13: a buffer is never resized). -/
theorem memWrite_length (b : ByteBuffer) (addr : Nat) (v : ByteBuffer)
    (h : addr + v.length ≤ b.length) : (memWrite b addr v).length = b.length := by
  simp [memWrite]; omega

/-- A read after a write inside the written range gives the byte written. -/
theorem memWrite_getElem?_inside (b : ByteBuffer) (addr : Nat) (v : ByteBuffer) (k : Nat)
    (h : addr + v.length ≤ b.length) (hk : k < v.length) :
    (memWrite b addr v)[addr + k]? = v[k]? := by
  have hl : (b.take addr).length = addr := by simp; omega
  rw [memWrite, List.append_assoc, List.getElem?_append_right (by omega), hl,
    Nat.add_sub_cancel_left, List.getElem?_append_left hk]

/-- A write leaves every byte outside the written range alone. -/
theorem memWrite_getElem?_outside (b : ByteBuffer) (addr : Nat) (v : ByteBuffer) (k : Nat)
    (h : addr + v.length ≤ b.length) (hk : k < addr ∨ addr + v.length ≤ k) :
    (memWrite b addr v)[k]? = b[k]? := by
  have hl : (b.take addr).length = addr := by simp; omega
  rcases hk with hk | hk
  · rw [memWrite, List.append_assoc, List.getElem?_append_left (by omega)]
    simp [hk]
  · rw [memWrite, List.getElem?_append_right (by simp; omega), List.getElem?_drop]
    simp only [List.length_append, hl]
    congr 1; omega

/-- Every address a buffer's cells list is at or above the base. -/
theorem cellsFrom_ge (base : Nat) (b : ByteBuffer) :
    ∀ c ∈ cellsFrom base b, base ≤ c.1 := by
  induction b generalizing base with
  | nil => simp [cellsFrom]
  | cons x rest ih =>
    intro c hc
    rcases List.mem_cons.1 hc with rfl | hc
    · exact Nat.le_refl _
    · exact Nat.le_of_succ_le (ih (base + 1) c hc)

/-- The cells of a buffer have strictly rising addresses. -/
theorem cellsFrom_rising (base : Nat) (b : ByteBuffer) :
    (cellsFrom base b).Pairwise (fun c d => c.1 < d.1) := by
  induction b generalizing base with
  | nil => exact List.Pairwise.nil
  | cons x rest ih =>
    exact List.Pairwise.cons (fun d hd => cellsFrom_ge (base + 1) rest d hd) (ih (base + 1))

end Sys2Proof.Machine
end

