-- ==== Sys2Proof/Laws/PerInstr.lean ====
section
/-!
SUPPORT. Statements about every instruction as it is written: one lemma per constructor.
-/

namespace Sys2Proof.Laws.FieldsOfEncoding

/-- The two fields of R42 in the encoded word: ZERO is 0, OPC is the opcode of R43. -/
def Statement (i : Instr) : Prop :=
  i.wf = true ∧ zeroField (encode i) = 0#24 ∧ opcField (encode i) = opcode i

theorem cksum : Statement .cksum := by unfold Statement; decide
theorem esplit : Statement .esplit := by unfold Statement; decide
theorem bdeint : Statement .bdeint := by unfold Statement; decide
theorem wdeint : Statement .wdeint := by unfold Statement; decide
theorem bflip : Statement .bflip := by unfold Statement; decide
theorem bint2 : Statement .bint2 := by unfold Statement; decide
theorem bint4 : Statement .bint4 := by unfold Statement; decide
theorem swaph : Statement .swaph := by unfold Statement; decide
theorem bcat : Statement .bcat := by unfold Statement; decide
theorem wmerge : Statement .wmerge := by unfold Statement; decide
theorem patch : Statement .patch := by unfold Statement; decide
theorem pad : Statement .pad := by unfold Statement; decide

end Sys2Proof.Laws.FieldsOfEncoding
end

