-- ==== Sys2Proof/Laws/Step.lean ====
section
/-!
SUPPORT. What a step and a run unfold to, once: one lemma per kind of event, and the runs of Safety.lean
against the host's.
-/

namespace Sys2Proof.Machine

/-- With no event left, a step changes nothing (log 3). -/
theorem step_of_nil {s : State} (h : s.pending = []) : step s = .next s := by
  simp [step, takeEvent, h]

/-- Otherwise a step performs the next event with that event taken off the list. -/
theorem step_of_cons {s : State} {e : Event} {rest : List Event} (h : s.pending = e :: rest) :
    step s = perform e { s with pending := rest } := by
  simp [step, takeEvent, h]

@[simp] theorem perform_action (a : HostAction) (s : State) :
    perform (.action a) s = hostAct a s := rfl
@[simp] theorem perform_reset (s : State) : perform .reset s = .next (resetHardware s) := rfl
@[simp] theorem hostAct_load (n : SrcSlot) (b : ByteBuffer) (s : State) :
    hostAct (.load n b) s = loadSlot n b s := rfl
@[simp] theorem hostAct_save (n : DstSlot) (s : State) : hostAct (.save n) s = saveSlot n s := rfl
@[simp] theorem hostAct_wr (r : RegName) (v : Word) (s : State) :
    hostAct (.wr r v) s = writeReg r v s := rfl
@[simp] theorem hostAct_rd (r : RegName) (s : State) : hostAct (.rd r) s = readReg r s := rfl

/-- A write to CMD of a word that decodes runs the command (R47). -/
theorem runCommand_ok {w : Word} {i : Instr} (h : decode w = .ok i) (s : State) :
    runCommand w s = exec i s := by simp [runCommand, h]

/-- A write to CMD of any other word raises IllegalCommand (R45). -/
theorem runCommand_error {w : Word} {e : DecodeError} (h : decode w = .error e) (s : State) :
    runCommand w s = .next (raise .illegalCommand s) := by simp [runCommand, h]

@[simp] theorem runFor_zero (s : State) : runFor 0 s = .next s := rfl

/-- One more step of a run, when the first gives a next state. -/
theorem runFor_succ_of_next {k : Nat} {s u : State} (h : step s = .next u) :
    runFor (k + 1) s = runFor k u := by simp [runFor, h]

/-- A refused action leaves the run stuck at it (R100). -/
theorem runFor_succ_of_refused {k : Nat} {s : State} {r : Refusal} (h : step s = .refused r) :
    runFor (k + 1) s = .refused r := by simp [runFor, h]

/-- What every step keeps, every run keeps: the induction over a run, once. -/
theorem runFor_keeps {Inv : State → Prop} (hstep : ∀ s t, Inv s → step s = .next t → Inv t) :
    ∀ (k : Nat) (s t : State), Inv s → runFor k s = .next t → Inv t := by
  intro k
  induction k with
  | zero =>
    intro s t hs h
    cases h
    exact hs
  | succ k ih =>
    intro s t hs h
    cases hu : step s with
    | next u => exact ih u t (hstep s u hs hu) (runFor_succ_of_next hu ▸ h)
    | fault r => cases r
    | refused r =>
      rw [runFor_succ_of_refused hu] at h
      cases h

/-- The duties of `k + 1` steps whose first event is `e` and whose first step gives `u` (20_memory.md
section 7): the duty for `e`, then those of the rest. -/
theorem keepsDuties_succ {k : Nat} {s u : State} {e : Event} {rest : List Event}
    (hp : s.pending = e :: rest) (hu : step s = .next u) :
    keepsDuties (k + 1) s = (hostMay s e && keepsDuties k u) := by
  simp [keepsDuties, hp, hu]

/-- The number of a register selects it, on the port for writes and the port for reads (R16). -/
@[simp] theorem regOfNumber_regNumber (r : RegName) : regOfNumber (regNumber r) = some r := by
  cases r <;> rfl
@[simp] theorem portWrite_regNumber (r : RegName) (v : Word) :
    portWrite (regNumber r) v = some (.wr r v) := by simp [portWrite]
@[simp] theorem portRead_regNumber (r : RegName) : portRead (regNumber r) = some (.rd r) := by
  simp [portRead]

/-- The runs of Safety.lean are the host's runs of this machine. -/
theorem core_run_eq_runFor (k : Nat) (s : State) :
    (Sys2Proof.core.run k s : StepOutcome) = runFor k s := by
  induction k generalizing s with
  | zero => rfl
  | succ k ih =>
    cases h : step s with
    | next u =>
      have h' : Sys2Proof.core.step s = .next u := h
      rw [runFor_succ_of_next h, ← ih]
      simp [Host.Core.run, h']
    | fault r => cases r
    | refused r =>
      have h' : Sys2Proof.core.step s = .refused r := h
      rw [runFor_succ_of_refused h]
      simp only [Host.Core.run, h']
      rfl

end Sys2Proof.Machine
end

