-- ==== Sys2Proof/Tests/Slice0.lean ====
section
/-!
SUPPORT. The model's own tests: ill-formed terms refused, the words of R43 decoded, the vectors of
95_test_vectors.md on single steps, and for every statement with hypotheses a concrete state and
operands that meet them.
-/

namespace Sys2Proof.Tests

open Sys2Proof.Machine

/-- The scaled configuration of 95_test_vectors.md T4: CAP = 8, BUFMAX = 16. -/
def smallCfg : Config := { cap := 8, bufmax := 16 }

/-- The reset state of the scaled machine with the four source slots loaded. -/
def loaded (a b c d : Option ByteBuffer) : State :=
  { State.resetWith smallCfg with
    mem := { s0 := a, s1 := b, s2 := c, s3 := d, d0 := none, d1 := none } }

/-- The reset state of the scaled machine with S0 loaded. -/
def loaded1 (a : ByteBuffer) : State := loaded (some a) none none none

/-- The reset state of the scaled machine with S0 and S1 loaded. -/
def loaded2 (a b : ByteBuffer) : State := loaded (some a) (some b) none none

/-- D0, D1, CRC and STATUS after an outcome, where there is a next state. -/
def seen : StepOutcome → Option (Option ByteBuffer × Option ByteBuffer × Option Word × Word)
  | .next t => some (t.mem.d0, t.mem.d1, t.crc, statusWord t)
  | .fault _ => none
  | .refused _ => none

/-- The refusal of an outcome, where there is one. -/
def refusalOf : StepOutcome → Option Refusal
  | .next _ => none
  | .fault _ => none
  | .refused r => some r

/-! ### The checks of WellFormed and Config refuse ill-formed terms -/

theorem test_wf_config_cap_zero : (Config.mk 0 16).wf = false := by decide
theorem test_wf_config_bufmax_below_cap : (Config.mk 9 8).wf = false := by decide
theorem test_wf_config_bufmax_too_large : (Config.mk 8 (2 ^ 32)).wf = false := by decide
theorem test_wf_config_hardware : Config.hardware.wf = true := by decide
theorem test_wf_slot_too_long : slotWf 2 (some [1#8, 2#8, 3#8]) = false := by decide
theorem test_wf_memory_too_long :
    (setSrc Memory.empty .s3 (some [1#8, 2#8, 3#8])).wf 2 = false := by decide
theorem test_wf_load_too_long :
    (Event.action (.load .s0 [1#8, 2#8, 3#8])).wf { cap := 1, bufmax := 2 } = false := by decide
theorem test_wf_state_code_ioFailure :
    stateWf { State.reset with code := 2#4 } = false := by decide

/-! ### Decoding: the words of R43 and the illegal words of T8, written out from R42 -/

theorem test_decode_cksum : decode 0b00000000000000000000000000000001#32 = .ok .cksum := by decide
theorem test_decode_esplit : decode 0b00000000000000000000000000000010#32 = .ok .esplit := by decide
theorem test_decode_bdeint : decode 0b00000000000000000000000000000011#32 = .ok .bdeint := by decide
theorem test_decode_wdeint : decode 0b00000000000000000000000000000100#32 = .ok .wdeint := by decide
theorem test_decode_bflip : decode 0b00000000000000000000000000000101#32 = .ok .bflip := by decide
theorem test_decode_bint2 : decode 0b00000000000000000000000000000110#32 = .ok .bint2 := by decide
theorem test_decode_bint4 : decode 0b00000000000000000000000000000111#32 = .ok .bint4 := by decide
theorem test_decode_swaph : decode 0b00000000000000000000000000001000#32 = .ok .swaph := by decide
theorem test_decode_bcat : decode 0b00000000000000000000000000001001#32 = .ok .bcat := by decide
theorem test_decode_wmerge : decode 0b00000000000000000000000000001010#32 = .ok .wmerge := by decide
theorem test_decode_patch : decode 0b00000000000000000000000000001011#32 = .ok .patch := by decide
theorem test_decode_pad : decode 0b00000000000000000000000000001100#32 = .ok .pad := by decide
theorem test_decode_E1 : decode 0x00000000#32 = .error .opcodeUnassigned := by decide
theorem test_decode_E2 : decode 0x0000000D#32 = .error .opcodeUnassigned := by decide
theorem test_decode_E3 : decode 0x000000FF#32 = .error .opcodeUnassigned := by decide
theorem test_decode_E4 : decode 0x00000105#32 = .error .zeroFieldNotZero := by decide
theorem test_decode_E5 : decode 0x80000001#32 = .error .zeroFieldNotZero := by decide
theorem test_decodeTableWord : decodeTableWord 32 12 = some .pad := by decide

/-! ### TABLE against T1 of 95_test_vectors.md -/

theorem test_table_from_0 :
    (List.range 32).map (fun i => (tableEntry (BitVec.ofNat 8 (0 + i))).toNat) =
    [0x00000000, 0x04C11DB7, 0x09823B6E, 0x0D4326D9, 0x130476DC, 0x17C56B6B,
      0x1A864DB2, 0x1E475005, 0x2608EDB8, 0x22C9F00F, 0x2F8AD6D6, 0x2B4BCB61,
      0x350C9B64, 0x31CD86D3, 0x3C8EA00A, 0x384FBDBD, 0x4C11DB70, 0x48D0C6C7,
      0x4593E01E, 0x4152FDA9, 0x5F15ADAC, 0x5BD4B01B, 0x569796C2, 0x52568B75,
      0x6A1936C8, 0x6ED82B7F, 0x639B0DA6, 0x675A1011, 0x791D4014, 0x7DDC5DA3,
      0x709F7B7A, 0x745E66CD] := by decide
theorem test_table_from_32 :
    (List.range 32).map (fun i => (tableEntry (BitVec.ofNat 8 (32 + i))).toNat) =
    [0x9823B6E0, 0x9CE2AB57, 0x91A18D8E, 0x95609039, 0x8B27C03C, 0x8FE6DD8B,
      0x82A5FB52, 0x8664E6E5, 0xBE2B5B58, 0xBAEA46EF, 0xB7A96036, 0xB3687D81,
      0xAD2F2D84, 0xA9EE3033, 0xA4AD16EA, 0xA06C0B5D, 0xD4326D90, 0xD0F37027,
      0xDDB056FE, 0xD9714B49, 0xC7361B4C, 0xC3F706FB, 0xCEB42022, 0xCA753D95,
      0xF23A8028, 0xF6FB9D9F, 0xFBB8BB46, 0xFF79A6F1, 0xE13EF6F4, 0xE5FFEB43,
      0xE8BCCD9A, 0xEC7DD02D] := by decide
theorem test_table_from_64 :
    (List.range 32).map (fun i => (tableEntry (BitVec.ofNat 8 (64 + i))).toNat) =
    [0x34867077, 0x30476DC0, 0x3D044B19, 0x39C556AE, 0x278206AB, 0x23431B1C,
      0x2E003DC5, 0x2AC12072, 0x128E9DCF, 0x164F8078, 0x1B0CA6A1, 0x1FCDBB16,
      0x018AEB13, 0x054BF6A4, 0x0808D07D, 0x0CC9CDCA, 0x7897AB07, 0x7C56B6B0,
      0x71159069, 0x75D48DDE, 0x6B93DDDB, 0x6F52C06C, 0x6211E6B5, 0x66D0FB02,
      0x5E9F46BF, 0x5A5E5B08, 0x571D7DD1, 0x53DC6066, 0x4D9B3063, 0x495A2DD4,
      0x44190B0D, 0x40D816BA] := by decide
theorem test_table_from_96 :
    (List.range 32).map (fun i => (tableEntry (BitVec.ofNat 8 (96 + i))).toNat) =
    [0xACA5C697, 0xA864DB20, 0xA527FDF9, 0xA1E6E04E, 0xBFA1B04B, 0xBB60ADFC,
      0xB6238B25, 0xB2E29692, 0x8AAD2B2F, 0x8E6C3698, 0x832F1041, 0x87EE0DF6,
      0x99A95DF3, 0x9D684044, 0x902B669D, 0x94EA7B2A, 0xE0B41DE7, 0xE4750050,
      0xE9362689, 0xEDF73B3E, 0xF3B06B3B, 0xF771768C, 0xFA325055, 0xFEF34DE2,
      0xC6BCF05F, 0xC27DEDE8, 0xCF3ECB31, 0xCBFFD686, 0xD5B88683, 0xD1799B34,
      0xDC3ABDED, 0xD8FBA05A] := by decide
theorem test_table_from_128 :
    (List.range 32).map (fun i => (tableEntry (BitVec.ofNat 8 (128 + i))).toNat) =
    [0x690CE0EE, 0x6DCDFD59, 0x608EDB80, 0x644FC637, 0x7A089632, 0x7EC98B85,
      0x738AAD5C, 0x774BB0EB, 0x4F040D56, 0x4BC510E1, 0x46863638, 0x42472B8F,
      0x5C007B8A, 0x58C1663D, 0x558240E4, 0x51435D53, 0x251D3B9E, 0x21DC2629,
      0x2C9F00F0, 0x285E1D47, 0x36194D42, 0x32D850F5, 0x3F9B762C, 0x3B5A6B9B,
      0x0315D626, 0x07D4CB91, 0x0A97ED48, 0x0E56F0FF, 0x1011A0FA, 0x14D0BD4D,
      0x19939B94, 0x1D528623] := by decide
theorem test_table_from_160 :
    (List.range 32).map (fun i => (tableEntry (BitVec.ofNat 8 (160 + i))).toNat) =
    [0xF12F560E, 0xF5EE4BB9, 0xF8AD6D60, 0xFC6C70D7, 0xE22B20D2, 0xE6EA3D65,
      0xEBA91BBC, 0xEF68060B, 0xD727BBB6, 0xD3E6A601, 0xDEA580D8, 0xDA649D6F,
      0xC423CD6A, 0xC0E2D0DD, 0xCDA1F604, 0xC960EBB3, 0xBD3E8D7E, 0xB9FF90C9,
      0xB4BCB610, 0xB07DABA7, 0xAE3AFBA2, 0xAAFBE615, 0xA7B8C0CC, 0xA379DD7B,
      0x9B3660C6, 0x9FF77D71, 0x92B45BA8, 0x9675461F, 0x8832161A, 0x8CF30BAD,
      0x81B02D74, 0x857130C3] := by decide
theorem test_table_from_192 :
    (List.range 32).map (fun i => (tableEntry (BitVec.ofNat 8 (192 + i))).toNat) =
    [0x5D8A9099, 0x594B8D2E, 0x5408ABF7, 0x50C9B640, 0x4E8EE645, 0x4A4FFBF2,
      0x470CDD2B, 0x43CDC09C, 0x7B827D21, 0x7F436096, 0x7200464F, 0x76C15BF8,
      0x68860BFD, 0x6C47164A, 0x61043093, 0x65C52D24, 0x119B4BE9, 0x155A565E,
      0x18197087, 0x1CD86D30, 0x029F3D35, 0x065E2082, 0x0B1D065B, 0x0FDC1BEC,
      0x3793A651, 0x3352BBE6, 0x3E119D3F, 0x3AD08088, 0x2497D08D, 0x2056CD3A,
      0x2D15EBE3, 0x29D4F654] := by decide
theorem test_table_from_224 :
    (List.range 32).map (fun i => (tableEntry (BitVec.ofNat 8 (224 + i))).toNat) =
    [0xC5A92679, 0xC1683BCE, 0xCC2B1D17, 0xC8EA00A0, 0xD6AD50A5, 0xD26C4D12,
      0xDF2F6BCB, 0xDBEE767C, 0xE3A1CBC1, 0xE760D676, 0xEA23F0AF, 0xEEE2ED18,
      0xF0A5BD1D, 0xF464A0AA, 0xF9278673, 0xFDE69BC4, 0x89B8FD09, 0x8D79E0BE,
      0x803AC667, 0x84FBDBD0, 0x9ABC8BD5, 0x9E7D9662, 0x933EB0BB, 0x97FFAD0C,
      0xAFB010B1, 0xAB710D06, 0xA6322BDF, 0xA2F33668, 0xBCB4666D, 0xB8757BDA,
      0xB5365D03, 0xB1F740B4] := by decide

/-! ### The vectors of T2 to T8 -/

/-- T2 CK12. -/
theorem test_cksum_CK12 : seen (exec .cksum (loaded1 [0x31#8, 0x32#8, 0x33#8, 0x34#8, 0x35#8, 0x36#8, 0x37#8, 0x38#8, 0x39#8])) =
    some (none, none, some 0x89A1897F#32, 0x400#32) := by decide

/-- T2 CK13. -/
theorem test_cksum_CK13 : seen (exec .cksum ({ loaded1 [0x31#8, 0x32#8, 0x33#8, 0x34#8, 0x35#8, 0x36#8, 0x37#8, 0x38#8, 0x39#8] with seed := 0xFFFFFFFF#32 })) =
    some (none, none, some 0x0376E6E7#32, 0x400#32) := by decide

/-- T3 I2. -/
theorem test_esplit_I2 : seen (exec .esplit (loaded1 [0x10#8, 0x11#8, 0x12#8, 0x13#8, 0x14#8])) =
    some (some [0x10#8, 0x11#8], some [0x12#8, 0x13#8], none, 0x300#32) := by decide

/-- T3 I3. -/
theorem test_esplit_I3 : seen (exec .esplit (loaded1 [0x10#8])) =
    some (some [], some [], none, 0x300#32) := by decide

/-- T3 I6. -/
theorem test_bdeint_I6 : seen (exec .bdeint (loaded1 [0x00#8, 0x01#8, 0x02#8, 0x03#8, 0x04#8])) =
    some (some [0x00#8, 0x02#8], some [0x01#8, 0x03#8], none, 0x300#32) := by decide

/-- T3 I7. -/
theorem test_bdeint_I7 : seen (exec .bdeint (loaded1 [0x11#8, 0x22#8, 0x33#8, 0x44#8, 0x55#8, 0x66#8, 0x77#8, 0x88#8])) =
    some (some [0x11#8, 0x33#8, 0x55#8, 0x77#8], some [0x22#8, 0x44#8, 0x66#8, 0x88#8], none, 0x300#32) := by decide

/-- T3 I8. -/
theorem test_wdeint_I8 : seen (exec .wdeint (loaded1 [0x00#8, 0x01#8, 0x02#8, 0x03#8, 0x04#8, 0x05#8, 0x06#8, 0x07#8])) =
    some (some [0x00#8, 0x01#8, 0x04#8, 0x05#8], some [0x02#8, 0x03#8, 0x06#8, 0x07#8], none, 0x300#32) := by decide

/-- T3 I11. -/
theorem test_wdeint_I11 : seen (exec .wdeint (loaded1 [0x00#8, 0x01#8, 0x02#8, 0x03#8, 0x04#8, 0x05#8])) =
    some (none, none, none, 0x4#32) := by decide

/-- T3 I14. -/
theorem test_bflip_I14 : seen (exec .bflip (loaded1 [0x00#8, 0x01#8, 0x02#8, 0x03#8])) =
    some (some [0x01#8, 0x00#8, 0x03#8, 0x02#8], none, none, 0x100#32) := by decide

/-- T3 I16. -/
theorem test_bflip_I16 : seen (exec .bflip (loaded1 [0x00#8, 0x01#8, 0x02#8])) =
    some (none, none, none, 0x4#32) := by decide

/-- T3 I17. -/
theorem test_bint2_I17 : seen (exec .bint2 (loaded2 [0x0A#8, 0x0B#8] [0x1A#8, 0x1B#8])) =
    some (some [0x0A#8, 0x1A#8, 0x0B#8, 0x1B#8], none, none, 0x100#32) := by decide

/-- T3 I18. -/
theorem test_bint2_I18 : seen (exec .bint2 (loaded2 [0x0A#8, 0x0B#8] [0x1A#8, 0x1B#8, 0x1C#8])) =
    some (none, none, none, 0x4#32) := by decide

/-- T3 I21. -/
theorem test_bint4_I21 : seen (exec .bint4 (loaded (some [0x00#8, 0x01#8]) (some [0x10#8, 0x11#8]) (some [0x20#8, 0x21#8]) (some [0x30#8, 0x31#8]))) =
    some (some [0x00#8, 0x10#8, 0x20#8, 0x30#8, 0x01#8, 0x11#8, 0x21#8, 0x31#8], none, none, 0x100#32) := by decide

/-- T3 I25. -/
theorem test_swaph_I25 : seen (exec .swaph (loaded1 [0x00#8, 0x01#8, 0x02#8, 0x03#8, 0x04#8])) =
    some (some [0x02#8, 0x03#8, 0x00#8, 0x01#8], none, none, 0x100#32) := by decide

/-- T3 I26. -/
theorem test_swaph_I26 : seen (exec .swaph (loaded1 [0x00#8])) =
    some (some [], none, none, 0x100#32) := by decide

/-- T4 B2. -/
theorem test_bcat_B2 : seen (exec .bcat (loaded2 [0xA0#8, 0xA1#8, 0xA2#8, 0xA3#8, 0xA4#8] [0xB0#8, 0xB1#8, 0xB2#8, 0xB3#8, 0xB4#8])) =
    some (some [0xA0#8, 0xA1#8, 0xA2#8, 0xA3#8, 0xA4#8, 0xB0#8, 0xB1#8, 0xB2#8], some [0xB3#8, 0xB4#8], none, 0x300#32) := by decide

/-- T4 B3, case 1. -/
theorem test_bcat_B3 : seen (exec .bcat (loaded2 [0xA0#8, 0xA1#8, 0xA2#8, 0xA3#8, 0xA4#8, 0xA5#8, 0xA6#8, 0xA7#8, 0xA8#8, 0xA9#8] [0xB0#8, 0xB1#8, 0xB2#8])) =
    some (some [0xA0#8, 0xA1#8, 0xA2#8, 0xA3#8, 0xA4#8, 0xA5#8, 0xA6#8, 0xA7#8], some [0xA8#8, 0xA9#8, 0xB0#8, 0xB1#8, 0xB2#8], none, 0x300#32) := by decide

/-- T5 W1. -/
theorem test_wmerge_W1 : seen (exec .wmerge (loaded2 [0xA0#8, 0xA1#8, 0xA2#8, 0xA3#8] [0xB0#8, 0xB1#8, 0xB2#8, 0xB3#8])) =
    some (some [0xA0#8, 0xA1#8, 0xB0#8, 0xB1#8, 0xA2#8, 0xA3#8, 0xB2#8, 0xB3#8], none, none, 0x100#32) := by decide

/-- T5 W5. -/
theorem test_wmerge_W5 : seen (exec .wmerge (loaded2 [0xA0#8, 0xA1#8, 0xA2#8] [0xB0#8, 0xB1#8, 0xB2#8])) =
    some (none, none, none, 0x4#32) := by decide

/-- T6 O4. -/
theorem test_patch_O4 : seen (exec .patch ({ loaded2 [0x00#8, 0x01#8, 0x02#8, 0x03#8, 0x04#8] [0xF0#8, 0xF1#8, 0xF2#8] with size := 3#32 })) =
    some (some [0xF0#8, 0xF1#8, 0xF2#8, 0x03#8, 0x04#8], none, none, 0x100#32) := by decide

/-- T6 O9. -/
theorem test_patch_O9 : seen (exec .patch ({ loaded2 [0x00#8, 0x01#8] [0xF0#8, 0xF1#8] with size := 0xFFFFFFFF#32 })) =
    some (none, none, none, 0x5#32) := by decide

/-- T7 F1. -/
theorem test_pad_F1 : seen (exec .pad ({ loaded1 [0x11#8, 0x22#8, 0x33#8] with size := 6#32, fill := 0xFF#8 })) =
    some (some [0x11#8, 0x22#8, 0x33#8, 0xFF#8, 0xFF#8, 0xFF#8], none, none, 0x100#32) := by decide

/-- T7 F7. -/
theorem test_pad_F7 : seen (exec .pad ({ loaded1 [0x11#8] with size := 17#32 })) =
    some (none, none, none, 0x3#32) := by decide

/-- T8 E9: the operands are kept when BINT4's result does not fit. -/
theorem test_bint4_E9_keeps_operands :
    let a : Option ByteBuffer := some [1#8, 2#8, 3#8, 4#8, 5#8]
    exec .bint4 (loaded a a a a) = .next { loaded a a a a with code := 3#4 } := rfl

/-- T7 F8: FILL keeps bits 7:0 of the word written. -/
theorem test_write_fill_F8 :
    writeReg .fill 0x1234ABCD#32 State.reset = .next { State.reset with fill := 0xCD#8 } := rfl

/-- The report line of P1: `x.bin size:8 crc32:0xb3bb0e94`. -/
theorem test_report_P1 : checksumReport "x.bin".toList 8 0xB3BB0E94#32 =
    "x.bin size:8 crc32:0xb3bb0e94".toList := by decide

/-- X13: the report of the machine's own CKSUM over ASCII `123456789`, SEED = 0. -/
theorem test_report_X13 :
    reportOfCksum "rom.bin".toList
      (loaded1 [0x31#8, 0x32#8, 0x33#8, 0x34#8, 0x35#8, 0x36#8, 0x37#8, 0x38#8, 0x39#8]) =
      some "rom.bin size:9 crc32:0x89a1897f".toList := by
  have hcrc : crcUpdate 0#32 [0x31#8, 0x32#8, 0x33#8, 0x34#8, 0x35#8, 0x36#8, 0x37#8, 0x38#8, 0x39#8] =
      0x89A1897F#32 := by decide
  have hline : checksumReport "rom.bin".toList 9 0x89A1897F#32 =
      "rom.bin size:9 crc32:0x89a1897f".toList := by decide
  refine (reportOfCksum_of_some (data := [0x31#8, 0x32#8, 0x33#8, 0x34#8, 0x35#8, 0x36#8, 0x37#8, 0x38#8,
    0x39#8]) rfl _).trans ?_
  exact congrArg some ((congrArg (checksumReport _ 9) hcrc).trans hline)

/-- A CKSUM that raises InputNotFound has no report, even where an earlier checksum is still in CRC. -/
theorem test_no_report_of_failed_cksum :
    reportOfCksum "rom.bin".toList { State.reset with crc := some 5#32 } = none := by decide

/-- R16's numbers at the ends of their range: 0 is CMD, 5 is CRC, and 6 is no register. -/
theorem test_register_numbers : portWrite 0 1#32 = some (.wr .cmd 1#32) ∧
    portRead 5 = some (.rd .crc) ∧ portRead 6 = none := by decide

/-- Lines 1 and 3 of P2 in the syntax of R49. -/
theorem test_line_text : lineText (.load .s0 [0xA0#8, 0xA1#8]) = "LOAD S0, A0 A1".toList ∧
    lineText (.command .bcat) = "BCAT".toList := by decide

/-- A step that writes a command word to CMD runs the command, as the first event after reset. -/
theorem test_step_first_command_after_reset :
    step (State.reset.withFetchWord 32 0x0A) = .next { State.reset with code := 1#4 } := rfl

/-! ### Witnesses: for each statement with hypotheses, a state and operands that meet them -/

/-- IllegalWordChangesOnlyCode: the boundary words 0 and 13, and BFLIP's opcode under a ZERO field that
is not 0. -/
theorem witness_IllegalWordChangesOnlyCode :
    ¬ (1 ≤ (0#32).toNat ∧ (0#32).toNat ≤ 12) ∧ ¬ (1 ≤ (13#32).toNat ∧ (13#32).toNat ≤ 12) ∧
    ¬ (1 ≤ (0x105#32).toNat ∧ (0x105#32).toNat ≤ 12) := by decide

theorem witness_StepRunsTheDecodedCommand :
    (State.reset.withFetchWord 32 3).pending = [.action (.wr .cmd 3#32)] ∧
    decode 3#32 = .ok .bdeint := by decide

theorem witness_MnemonicLineRunsItsCommand :
    ({ State.reset with pending := [.action (.wr .cmd 9#32), .action (.rd .status)] } : State).pending =
      programEvents [.command .bcat, .rd .status] := by decide

/-- StepTakesOneEvent: a state for each clause. -/
theorem witness_StepTakesOneEvent :
    ({ State.reset with pending := [.reset] } : State).pending = [.reset] ∧
    State.reset.pending = [] := by decide

/-- StepIsRefusedOnlyWhereTheRulesSay: each of the three refusals, at its boundary, and the next state one
byte earlier. -/
theorem witness_StepIsRefusedOnlyWhereTheRulesSay :
    refusalOf (step { loaded1 [] with pending := [.action (.load .s1 (rep 1#8 17))] }) =
      some (.loadTooLong .s1) ∧
    refusalOf (step { loaded1 [] with pending := [.action (.load .s1 (rep 1#8 16))] }) = none ∧
    refusalOf (step { loaded1 [] with pending := [.action (.save .d1)] }) =
      some (.saveEmptySlot .d1) ∧
    refusalOf (step { loaded1 [] with pending := [.action (.rd .crc)] }) =
      some .readCrcNoValue := by decide

/-- LoadReplacesOneSourceSlot: 16 and 17 bytes, BUFMAX being 16, and another slot. -/
theorem witness_LoadReplacesOneSourceSlot :
    (rep 7#8 16).length ≤ (loaded1 []).cfg.bufmax ∧ (loaded1 []).cfg.bufmax < (rep 7#8 17).length ∧
    SrcSlot.s1 ≠ SrcSlot.s0 := by decide

theorem witness_SaveReturnsTheWholeBuffer :
    dstSlot ({ loaded1 [] with mem := { (loaded1 []).mem with d0 := some [] } } : State).mem .d0 =
      some [] ∧
    dstSlot ({ loaded1 [] with mem := { (loaded1 []).mem with d0 := some [] } } : State).mem .d1 =
      none := by decide

theorem witness_RegisterWriteFollowsItsAccess :
    decode 12#32 = .ok .pad ∧ decode 13#32 = .error .opcodeUnassigned := by decide

theorem witness_RegisterReadReturnsItsValue :
    ({ State.reset with crc := some 0#32 } : State).crc = some 0#32 ∧ State.reset.crc = none := by decide

/-- FailedCommandChangesOnlyCode and ReissueAfterErrorFailsAlike: an odd BFLIP. -/
theorem witness_FailedCommandChangesOnlyCode :
    ∃ t, exec .bflip (loaded1 [1#8]) = .next t ∧ t.code ≠ 0#4 := ⟨_, rfl, by decide⟩

theorem witness_ReissueAfterErrorFailsAlike :
    ∃ t, exec .wmerge (loaded2 [1#8] [2#8]) = .next t ∧ t.code ≠ 0#4 := ⟨_, rfl, by decide⟩

/-- SuccessfulCommandCommits: a command with one bank and one with two, and slots in and not in the list
of those read. -/
theorem witness_SuccessfulCommandCommits :
    (∃ t, exec .bcat (loaded2 (rep 1#8 8) []) = .next t ∧ t.code = 0#4) ∧
    (∃ t, exec .bcat (loaded2 (rep 1#8 8) [2#8]) = .next t ∧ t.code = 0#4) ∧
    SrcSlot.s1 ∈ sourceSlots .bcat ∧ SrcSlot.s2 ∉ sourceSlots .bcat :=
  ⟨⟨_, rfl, by decide⟩, ⟨_, rfl, by decide⟩, by decide, by decide⟩

theorem witness_ReissueAfterSuccessFindsNoOperand :
    ∃ t, exec .swaph (loaded1 [1#8, 2#8, 3#8]) = .next t ∧ t.code = 0#4 := ⟨_, rfl, by decide⟩

/-- MissingOperandIsReportedFirst: S0, S1 and S2 empty in turn (T3 I23 for the last). -/
theorem witness_MissingOperandIsReportedFirst :
    State.reset.mem.s0 = none ∧ (loaded1 [0#8]).mem.s1 = none ∧
    (loaded (some [0#8]) (some [16#8]) none (some [48#8])).mem.s2 = none := by decide

/-- CommandDependsOnItsOperandsOnly: two states that differ in S2, D0, CRC, CODE, SEED and FILL and agree
on what PATCH reads. -/
theorem witness_CommandDependsOnItsOperandsOnly :
    let s := { loaded2 [1#8, 2#8] [3#8] with size := 1#32 }
    let s' := { loaded (some [1#8, 2#8]) (some [3#8]) (some []) none with
      size := 1#32, crc := some 5#32, code := 4#4, seed := 9#32, fill := 7#8 }
    (∀ n ∈ sourceSlots .patch, srcSlot s.mem n = srcSlot s'.mem n) ∧ s.cfg = s'.cfg ∧
      s.size = s'.size ∧ s ≠ s' := by decide

/-- UnusedCodesAreNeverWritten: from a state that no run reaches, an idle step. -/
theorem witness_UnusedCodesAreNeverWritten :
    ∃ t, step { State.reset with code := 2#4 } = .next t ∧ (t.code = 2#4 ∨ 7 ≤ t.code.toNat) :=
  ⟨_, rfl, by decide⟩

theorem witness_CommandLeavesOtherBytesAlone :
    (∃ t, exec .pad (loaded (some []) none (some [9#8]) none) = .next t ∧
      SrcSlot.s2 ∉ sourceSlots .pad) ∧
    (∃ t, exec .pad (loaded1 [1#8]) = .next t ∧ t.code ≠ 0#4) :=
  ⟨⟨_, rfl, by decide⟩, ⟨_, rfl, by decide⟩⟩

/-- The clauses of the one-operand commands: S0 empty; S0 loaded, empty and odd buffers among them. -/
theorem witness_OneOperandCommands :
    State.reset.mem.s0 = none ∧ (loaded1 []).mem.s0 = some [] ∧
    (loaded1 [1#8, 2#8, 3#8]).mem.s0 = some [1#8, 2#8, 3#8] := by decide

theorem witness_ChecksumCommandFollowsItsRule :
    State.reset.mem.s0 = none ∧ (loaded1 []).mem.s0 = some [] := by decide

/-- WDEINT: lengths 0, 3 and 4. -/
theorem witness_WordDeinterleaveCommandFollowsItsRule :
    ([] : ByteBuffer).length % 4 = 0 ∧ (rep 1#8 3).length % 4 ≠ 0 ∧ (rep 1#8 4).length % 4 = 0 ∧
    (loaded1 (rep 1#8 3)).mem.s0 = some (rep 1#8 3) := by decide

/-- BFLIP: lengths 1 and 2. -/
theorem witness_ByteFlipCommandFollowsItsRule :
    (rep 1#8 1).length % 2 ≠ 0 ∧ (rep 1#8 2).length % 2 = 0 ∧
    (loaded1 (rep 1#8 1)).mem.s0 = some (rep 1#8 1) := by decide

/-- BINT2: unequal; equal and one byte too long (9, BUFMAX being 16); equal and exactly fitting (8). -/
theorem witness_ByteInterleave2CommandFollowsItsRule :
    (rep 1#8 2).length ≠ (rep 1#8 3).length ∧
    (loaded2 (rep 1#8 9) (rep 2#8 9)).cfg.bufmax < 2 * (rep 1#8 9).length ∧
    2 * (rep 1#8 8).length ≤ (loaded2 (rep 1#8 8) (rep 2#8 8)).cfg.bufmax ∧
    (loaded2 (rep 1#8 8) (rep 2#8 8)).mem.s1 = some (rep 2#8 8) ∧
    (loaded1 (rep 1#8 8)).mem.s1 = none := by decide

/-- BINT4: the last length unequal; 5 bytes each (20 exceeds 16); 4 bytes each (16 fits). -/
theorem witness_ByteInterleave4CommandFollowsItsRule :
    ¬ ((rep 1#8 2).length = (rep 1#8 2).length ∧ (rep 1#8 2).length = (rep 1#8 2).length ∧
      (rep 1#8 2).length = (rep 1#8 1).length) ∧
    smallCfg.bufmax < 4 * (rep 1#8 5).length ∧ 4 * (rep 1#8 4).length ≤ smallCfg.bufmax ∧
    (loaded (some (rep 1#8 4)) (some (rep 1#8 4)) (some (rep 1#8 4)) (some (rep 1#8 4))).mem.s3 =
      some (rep 1#8 4) := by decide

/-- MergeUndoesDeinterleaveOnTheMachine: an odd length for BDEINT, a multiple of 4 for WDEINT. -/
theorem witness_MergeUndoesDeinterleaveOnTheMachine :
    (∃ t, (loaded1 (rep 1#8 5)).mem.s0 = some (rep 1#8 5) ∧
      (rep 1#8 5).length ≤ (loaded1 (rep 1#8 5)).cfg.bufmax ∧
      exec .bdeint (loaded1 (rep 1#8 5)) = .next t) ∧
    (∃ t, (loaded1 (rep 1#8 16)).mem.s0 = some (rep 1#8 16) ∧
      (rep 1#8 16).length ≤ (loaded1 (rep 1#8 16)).cfg.bufmax ∧
      exec .wdeint (loaded1 (rep 1#8 16)) = .next t ∧ t.code = 0#4) :=
  ⟨⟨_, rfl, by decide, rfl⟩, ⟨_, rfl, by decide, rfl, by decide⟩⟩

/-- BCAT: 17 bytes in all (refused) and 16 (accepted); A of 9 (case 1) and of 8 (case 2); 8 bytes in all
(one bank) and 9 (two). -/
theorem witness_BankConcatCommandFollowsItsRule :
    2 * smallCfg.cap < (rep 1#8 9).length + (rep 2#8 8).length ∧
    (rep 1#8 8).length + (rep 2#8 8).length ≤ 2 * smallCfg.cap ∧
    smallCfg.cap < (rep 1#8 9).length ∧ (rep 1#8 8).length ≤ smallCfg.cap ∧
    (rep 1#8 8).length + ([] : ByteBuffer).length ≤ smallCfg.cap ∧
    smallCfg.cap < (rep 1#8 8).length + (rep 2#8 1).length ∧
    (loaded2 (rep 1#8 9) (rep 2#8 7)).mem.s0 = some (rep 1#8 9) ∧
    (loaded2 (rep 1#8 9) (rep 2#8 7)).mem.s1 = some (rep 2#8 7) := by decide

theorem witness_BankSplitIsOneCut :
    (rep 1#8 9).length + (rep 2#8 7).length ≤ 2 * 8 := by decide

theorem witness_BanksHoldEveryByteWithinCapacity :
    ∃ t, exec .bcat (loaded2 (rep 1#8 9) (rep 2#8 7)) = .next t ∧ t.code = 0#4 ∧
      t.mem.d1.isSome = true := ⟨_, rfl, by decide, by decide⟩

theorem witness_BankOutputsAreNamedInOrder :
    ∃ t, exec .bcat (loaded2 (rep 1#8 8) [2#8]) = .next t ∧ t.mem.d0 = some (rep 1#8 8) ∧
      t.mem.d1 = some [2#8] := ⟨_, rfl, by decide, by decide⟩

/-- WMERGE: unequal; equal and odd; 10 bytes each (20 exceeds 16); 8 bytes each (16 fits). -/
theorem witness_WordMergeCommandFollowsItsRule :
    (rep 1#8 2).length ≠ (rep 1#8 4).length ∧ (rep 1#8 3).length % 2 ≠ 0 ∧
    ((rep 1#8 10).length % 2 = 0 ∧ smallCfg.bufmax < 2 * (rep 1#8 10).length) ∧
    ((rep 1#8 8).length % 2 = 0 ∧ 2 * (rep 1#8 8).length ≤ smallCfg.bufmax) := by decide

/-- PATCH and its properties: SIZE 4 against lengths 3 and 5; SIZE 3, the patch's whole length. -/
theorem witness_PatchCommandFollowsItsRule :
    (rep 1#8 3).length < (4#32).toNat ∧ (3#32).toNat ≤ (rep 1#8 3).length ∧
    (3#32).toNat ≤ (rep 1#8 5).length := by decide

theorem witness_OverlayPropertiesHold :
    3 ≤ (rep 1#8 3).length ∧ 3 = (rep 1#8 3).length ∧ 0 ≤ (rep 1#8 3).length := by decide

theorem witness_OverlayIsOneMemoryWrite :
    (loaded2 (rep 1#8 5) (rep 2#8 3)).mem.s1 = some (rep 2#8 3) ∧ 3 ≤ (rep 2#8 3).length ∧
    3 ≤ (rep 1#8 5).length := by decide

/-- PAD and its properties: SIZE 2, 3, 16 and 17 for 3 bytes, BUFMAX being 16. -/
theorem witness_PadCommandFollowsItsRule :
    (2#32).toNat < (rep 1#8 3).length ∧ (rep 1#8 3).length ≤ (3#32).toNat ∧
    (16#32).toNat ≤ smallCfg.bufmax ∧ smallCfg.bufmax < (17#32).toNat := by decide

theorem witness_PadPropertiesHold : (rep 1#8 3).length ≤ 3 ∧ 3 ≤ 5 := by decide

theorem witness_ChecksumSeesEverySingleByteChange :
    ([1#8, 2#8] : ByteBuffer).length = ([1#8, 3#8] : ByteBuffer).length ∧
    ([1#8, 2#8] : ByteBuffer)[1]? ≠ ([1#8, 3#8] : ByteBuffer)[1]? ∧
    ∀ j, j ≠ 1 → ([1#8, 2#8] : ByteBuffer)[j]? = ([1#8, 3#8] : ByteBuffer)[j]? := by
  refine ⟨by decide, by decide, fun j hj => ?_⟩
  rcases j with _ | _ | j
  · rfl
  · exact absurd rfl hj
  · rfl

/-- InterleavePropertiesHold and StrideViewAgreesWithTheCommands: lengths for each clause. -/
theorem witness_InterleavePropertiesHold :
    (rep 1#8 4).length % 2 = 0 ∧ (rep 1#8 5).length % 2 = 1 ∧ (rep 1#8 4).length % 4 = 0 := by decide

theorem witness_StrideViewAgreesWithTheCommands :
    (rep 1#8 8).length % 4 = 0 ∧ (rep 1#8 4).length = (rep 2#8 4).length ∧
    (rep 1#8 4).length % 2 = 0 := by decide

/-- The invariant and the rules about one step: a step that runs a command from a state that meets the
invariant. -/
theorem witness_StepKeepsStateWellFormed :
    ∃ t, stateWf (State.withFetchWord (loaded1 (rep 1#8 16)) 32 8) = true ∧
      step (State.withFetchWord (loaded1 (rep 1#8 16)) 32 8) = .next t := ⟨_, by decide, rfl⟩

theorem witness_ResetLeavesTheResetState :
    State.reset = State.reset ∧ State.resetWith smallCfg = State.resetWith smallCfg ∧
    perform .reset (loaded1 [1#8]) = .next (State.resetWith smallCfg) :=
  ⟨rfl, rfl, rfl⟩

theorem witness_ResetStateIsWellFormed : smallCfg.wf = true := by decide

theorem witness_ParametersChangeOnlyByTheirWrite :
    let e : Event := .action (.wr .size 7#32)
    (∃ t, step { State.reset with pending := [e] } = .next t) ∧
      (∀ v, e ≠ .action (.wr .seed v)) ∧ e ≠ .reset :=
  ⟨⟨_, rfl⟩, fun v h => by simp at h, by decide⟩

theorem witness_ResultsChangeOnlyByCommandOrReset :
    let e : Event := .action (.load .s0 [])
    (∃ t, step { loaded1 [] with pending := [e] } = .next t) ∧
      (∀ w, e ≠ .action (.wr .cmd w)) ∧ e ≠ .reset :=
  ⟨⟨_, rfl⟩, fun w h => by simp at h, by decide⟩

theorem witness_SourceSlotChangesOnlyByLoadOrEmptying :
    ∃ t, step (State.withFetchWord (loaded1 [1#8]) 32 1) = .next t ∧
      srcSlot t.mem .s0 ≠ srcSlot (loaded1 [1#8]).mem .s0 := ⟨_, rfl, by decide⟩

theorem witness_RunEndsWhenItsListDoes :
    ∃ t, runAll { loaded1 [1#8] with pending := [.action (.wr .cmd 1#32), .action (.rd .crc)] } =
      .next t := ⟨_, rfl⟩

/-- CarefulHostIsNeverStuck: a LOAD of exactly BUFMAX bytes, a SAVE of a slot that holds a buffer, and an
RD of CRC while it has a value, from states that meet the invariant. -/
theorem witness_CarefulHostIsNeverStuck :
    let load : Event := .action (.load .s1 (rep 1#8 16))
    let s := { loaded1 [1#8] with pending := [load] }
    let s' := { State.reset with
      mem := { Memory.empty with d0 := some [] }
      crc := some 7#32
      pending := [.action (.save .d0), .action (.rd .crc)] }
    let s'' := { s' with pending := [.action (.rd .crc)] }
    (stateWf s = true ∧ load.wf s.cfg = true ∧ (∀ n, load ≠ .action (.save n)) ∧
      load ≠ .action (.rd .crc)) ∧
    (stateWf s' = true ∧ Event.wf s'.cfg (.action (.save .d0)) = true ∧
      dstSlot s'.mem .d0 = some []) ∧
    (stateWf s'' = true ∧ Event.wf s''.cfg (.action (.rd .crc)) = true ∧ s''.crc = some 7#32) := by
  refine ⟨⟨by decide, by decide, fun n h => ?_, by decide⟩, by decide, by decide⟩
  cases h

theorem witness_ReportLineReadsBack :
    (4294967295 < 2 ^ 32 ∧ 0 < 2 ^ 32) ∧ (loaded1 [1#8]).mem.s0 = some [1#8] ∧
    State.reset.mem.s0 = none := by decide

theorem witness_RegistersStandAtTheirNumbersAndBits :
    regOfNumber 5 = some .crc ∧ 6 ≤ 6 := by decide

end Sys2Proof.Tests
end

section
/-!
PROOFS. The state after reset (10_state.md R25, 70_reset_and_hazards.md R92). The rules about an empty
memory come first; R25's values are then read off `resetHardware` once, since every state that stands
after a reset is one that `resetHardware` gives.
-/

namespace Sys2Proof.Machine

/-! ### The empty memory (R25) -/

@[simp] theorem srcSlot_empty (n : SrcSlot) : srcSlot Memory.empty n = none := by cases n <;> rfl
@[simp] theorem dstSlot_empty (n : DstSlot) : dstSlot Memory.empty n = none := by cases n <;> rfl

/-- STATUS of a machine whose slots are empty, with CODE 0 and no checksum, has no bit set (R18). -/
theorem statusWord_of_empty {s : State} (hmem : s.mem = Memory.empty) (hcrc : s.crc = none)
    (hcode : s.code = 0#4) : statusWord s = 0#32 := by
  rw [statusWord_of_ok hcode, hmem, hcrc]
  rfl

@[simp] theorem statusWord_resetHardware (s : State) : statusWord (resetHardware s) = 0#32 :=
  statusWord_of_empty rfl rfl rfl

/-! ### The states that stand after a reset (R92) -/

/-- A reset of a machine that stands as after reset changes nothing. -/
theorem resetHardware_resetWith (c : Config) : resetHardware (State.resetWith c) = State.resetWith c :=
  rfl

/-- What a reset event answers: `resetHardware` of the state before it, and nothing else. -/
theorem perform_reset_next_iff (s t : State) : perform .reset s = .next t ↔ t = resetHardware s := by
  rw [perform_reset, Host.Outcome.next.injEq, eq_comm]

/-- The hardware after reset, a machine with any parameters after reset, and what a reset event gives
are all values of `resetHardware`. -/
theorem exists_eq_resetHardware {s : State}
    (h : s = State.reset ∨ (∃ c, s = State.resetWith c) ∨
      (∃ before, perform .reset before = .next s)) :
    ∃ before, s = resetHardware before := by
  rcases h with hreset | ⟨c, hwith⟩ | ⟨before, hperform⟩
  · exact ⟨State.reset, hreset.trans (resetHardware_resetWith Config.hardware).symm⟩
  · exact ⟨State.resetWith c, hwith.trans (resetHardware_resetWith c).symm⟩
  · exact ⟨before, (perform_reset_next_iff before s).1 hperform⟩

/-- Settles O15: each of the three kinds of state is a value of `resetHardware`, whose fields and STATUS
are R25's; and a reset event always answers one. -/
theorem resetLeavesTheResetState : Obligations.ResetLeavesTheResetState := by
  refine ⟨fun s hs => ?values, fun before => ⟨resetHardware before, perform_reset before⟩⟩
  case values =>
    obtain ⟨before, rfl⟩ := exists_eq_resetHardware hs
    exact ⟨srcSlot_empty, dstSlot_empty, resetHardware_crc before, resetHardware_code before,
      resetHardware_seed before, resetHardware_size before, resetHardware_fill before,
      statusWord_resetHardware before⟩

end Sys2Proof.Machine
end

section
/-!
PROOFS. The host's four actions (20_memory.md R36 to R39). One rule per action and outcome comes first,
then what a read returns as numbers; each statement is assembled from these.
-/

namespace Sys2Proof.Machine

/-! ### LOAD (R36) -/

/-- A write to a source slot leaves both destination slots alone. -/
@[simp] theorem dstSlot_setSrc (m : Memory) (n : SrcSlot) (v : Option ByteBuffer) (k : DstSlot) :
    dstSlot (setSrc m n v) k = dstSlot m k := by
  cases k with
  | d0 => exact setSrc_d0 m n v
  | d1 => exact setSrc_d1 m n v

theorem loadSlot_of_le {s : State} {b : ByteBuffer} (h : b.length ≤ s.cfg.bufmax) (n : SrcSlot) :
    loadSlot n b s = .next { s with mem := setSrc s.mem n (some b) } := if_pos h

theorem loadSlot_of_lt {s : State} {b : ByteBuffer} (h : s.cfg.bufmax < b.length) (n : SrcSlot) :
    loadSlot n b s = .refused (.loadTooLong n) := if_neg (Nat.not_le.2 h)

/-- Settles O10: the next memory is `setSrc` of the slot, whose read and frame rules give the slots. -/
theorem loadReplacesOneSourceSlot : Obligations.LoadReplacesOneSourceSlot := by
  intro s n b
  refine ⟨fun hfits => ⟨setSrc s.mem n (some b), ?outcome, ?loaded, ?sources, ?destinations⟩,
    fun hlong => ?refused⟩
  case outcome => rw [hostAct_load, loadSlot_of_le hfits]
  case loaded => exact srcSlot_setSrc_same s.mem n (some b)
  case sources => exact fun k hk => srcSlot_setSrc_other s.mem n k (some b) hk
  case destinations => exact dstSlot_setSrc s.mem n (some b)
  case refused => rw [hostAct_load, loadSlot_of_lt hlong]

/-! ### SAVE (R37) -/

theorem saveSlot_of_some {s : State} {n : DstSlot} {b : ByteBuffer} (h : dstSlot s.mem n = some b) :
    saveSlot n s = .next (reply (.buffer b) s) := by
  rw [saveSlot, h]

theorem saveSlot_of_none {s : State} {n : DstSlot} (h : dstSlot s.mem n = none) :
    saveSlot n s = .refused (.saveEmptySlot n) := by
  rw [saveSlot, h]

/-- Settles O11: a SAVE is a `reply` of the slot's buffer, which touches the list of replies alone. -/
theorem saveReturnsTheWholeBuffer : Obligations.SaveReturnsTheWholeBuffer := by
  intro s n
  refine ⟨fun b hb => ?saved, fun hnone => ?refused⟩
  case saved => rw [hostAct_save, saveSlot_of_some hb, reply]
  case refused => rw [hostAct_save, saveSlot_of_none hnone]

/-! ### WR (R38) -/

@[simp] theorem writeReg_cmd (v : Word) (s : State) : writeReg .cmd v s = runCommand v s := rfl
@[simp] theorem writeReg_status (v : Word) (s : State) : writeReg .status v s = .next s := rfl
@[simp] theorem writeReg_seed (v : Word) (s : State) :
    writeReg .seed v s = .next { s with seed := v } := rfl
@[simp] theorem writeReg_size (v : Word) (s : State) :
    writeReg .size v s = .next { s with size := v } := rfl
@[simp] theorem writeReg_fill (v : Word) (s : State) :
    writeReg .fill v s = .next { s with fill := v.extractLsb' 0 8 } := rfl
@[simp] theorem writeReg_crc (v : Word) (s : State) : writeReg .crc v s = .next s := rfl

/-- Bits 7:0 of a word are its value modulo 256. -/
theorem extractLsb'_low_byte (v : Word) : v.extractLsb' 0 8 = BitVec.ofNat 8 v.toNat := by
  rw [BitVec.ofNat_toNat, BitVec.setWidth_eq_extractLsb' (by decide)]

/-- Settles O12, register by register; a write to CMD is R47's run of the word, by what it decodes to. -/
theorem registerWriteFollowsItsAccess : Obligations.RegisterWriteFollowsItsAccess := by
  intro s v
  refine ⟨writeReg_seed v s, writeReg_size v s, ?fill, writeReg_status v s, writeReg_crc v s,
    fun i hi => ?command, fun e he => ?illegal⟩
  case fill => rw [hostAct_wr, writeReg_fill, extractLsb'_low_byte]
  case command => rw [hostAct_wr, writeReg_cmd, runCommand_ok hi]
  case illegal => rw [hostAct_wr, writeReg_cmd, runCommand_error he, raise, errorCode]

/-! ### RD (R39) -/

theorem readReg_of_some {r : RegName} {s : State} {w : Word} (h : regValue r s = some w) :
    readReg r s = .next (reply (.word w) s) := by
  rw [readReg, h]

theorem readReg_of_none {r : RegName} {s : State} (h : regValue r s = none) :
    readReg r s = .refused .readCrcNoValue := by
  rw [readReg, h]

/-- The host's read of a register that has a value, with the next state written out. -/
theorem hostAct_rd_of_some {r : RegName} {s : State} {w : Word} (h : regValue r s = some w) :
    hostAct (.rd r) s = .next { s with replies := s.replies ++ [.word w] } := by
  rw [hostAct_rd, readReg_of_some h, reply]

/-- A concatenation as a number: the left part stands above the bits of the right one. -/
theorem toNat_append_eq_add {m n : Nat} (x : BitVec m) (y : BitVec n) :
    (x ++ y).toNat = x.toNat * 2 ^ n + y.toNat := by
  rw [BitVec.toNat_append, ← Nat.shiftLeft_add_eq_or_of_lt y.isLt, Nat.shiftLeft_eq]

/-- STATUS as a number, with any CODE: each valid bit has its own power of two (R18). -/
theorem statusWord_toNat (s : State) :
    (statusWord s).toNat = s.code.toNat + (if s.mem.d0.isSome then 0x100 else 0) +
      (if s.mem.d1.isSome then 0x200 else 0) + (if s.crc.isSome then 0x400 else 0) := by
  have hfields : (statusWord s).toNat =
      s.code.toNat + 0x100 * (d0v s).toNat + 0x200 * (d1v s).toNat + 0x400 * (crcv s).toNat := by
    simp only [statusWord, toNat_append_eq_add, BitVec.toNat_ofBool, BitVec.toNat_ofNat]
    omega
  rw [hfields, d0v, d1v, crcv]
  simp only [Bool.toNat, Bool.cond_eq_ite, mul_ite, mul_one, mul_zero]

/-- Settles O13: a read is a `reply` of the register's value, STATUS and FILL as numbers; only CRC can be
without a value. -/
theorem registerReadReturnsItsValue : Obligations.RegisterReadReturnsItsValue := by
  intro s
  refine ⟨⟨statusWord s, statusWord_toNat s, hostAct_rd_of_some rfl⟩, hostAct_rd_of_some rfl,
    hostAct_rd_of_some rfl, hostAct_rd_of_some rfl, hostAct_rd_of_some ?fill,
    fun w hw => hostAct_rd_of_some hw, fun hnone => ?noValue⟩
  case fill => rw [regValue, BitVec.ofNat_toNat]
  case noValue => exact readReg_of_none hnone

end Sys2Proof.Machine
end

section
/-!
PROOFS. The illegal words (30_encoding.md R42, R45): a word whose field ZERO is 0 is its OPC as a
number, so a number other than 1 to 12 fails one of the decoder's two checks.
-/

namespace Sys2Proof.Machine

/-- With field ZERO 0, field OPC holds the whole value of the word (R42). -/
theorem opcField_toNat_of_zeroField {w : Word} (hzero : zeroField w = 0#24) :
    (opcField w).toNat = w.toNat := by
  have hhigh : (zeroField w).toNat = 0 := by rw [hzero]; rfl
  rw [zeroField, BitVec.extractLsb'_toNat, Nat.shiftRight_eq_div_pow] at hhigh
  rw [opcField, BitVec.extractLsb'_toNat, Nat.shiftRight_zero]
  omega

/-- The opcode map assigns nothing outside 1 to 12 (R43). -/
theorem decodeOpcode_eq_none {opc : Byte} (h : ¬ (1 ≤ opc.toNat ∧ opc.toNat ≤ 12)) :
    decodeOpcode opc = none := by
  unfold decodeOpcode
  split
  case h_13 => rfl
  all_goals omega

/-- A word other than 1 to 12 does not decode: its OPC is unassigned or its ZERO is not 0 (R45). -/
theorem exists_decode_eq_error {w : Word} (h : ¬ (1 ≤ w.toNat ∧ w.toNat ≤ 12)) :
    ∃ e, decode w = .error e := by
  by_cases hzero : zeroField w = 0#24
  · have hnone : decodeOpcode (opcField w) = none :=
      decodeOpcode_eq_none (opcField_toNat_of_zeroField hzero ▸ h)
    exact ⟨.opcodeUnassigned, by rw [decode, if_pos hzero, hnone]⟩
  · exact ⟨.zeroFieldNotZero, if_neg hzero⟩

/-- Settles O4: the word does not decode, and what a write to CMD does with such a word is the last
clause of the rule for register writes (R38). -/
theorem illegalWordChangesOnlyCode : Obligations.IllegalWordChangesOnlyCode := by
  intro w s hword
  obtain ⟨e, he⟩ := exists_decode_eq_error hword
  obtain ⟨-, -, -, -, -, -, hillegal⟩ := registerWriteFollowsItsAccess s w
  exact hillegal e he

end Sys2Proof.Machine
end

section
/-!
PROOFS. The checksum accumulator (40_checksum.md R51 to R53): the table and the update as arithmetic on
natural numbers, and CKSUM's two outcomes. The numeric round stands beside the bit vector's; reading a
word as a number carries one into the other, so it carries eight into eight.
-/

namespace Sys2Proof.Machine

/-! ### The two ends of a command (R47) -/

/-- A command whose checks pass commits their results (R48). -/
theorem exec_of_ok {i : Instr} {s : State} {r : Results} (h : resultsOf i s = .ok r) :
    exec i s = .next (commit (sourceSlots i) r s) := by
  rw [exec_eq_finish, h, finish_ok]

/-- A command one of whose checks fails raises that check's error (R86). -/
theorem exec_of_error {i : Instr} {s : State} {e : CmdError} (h : resultsOf i s = .error e) :
    exec i s = .next (raise e s) := by
  rw [exec_eq_finish, h, finish_error]

/-! ### Words as numbers (R8) -/

/-- A shift to the left within the word multiplies, modulo 2 to the width. -/
theorem toNat_shiftLeft_eq_mod {w : Nat} (a : BitVec w) (k : Nat) :
    (a <<< k).toNat = (a.toNat * 2 ^ k) % 2 ^ w := by
  rw [BitVec.toNat_shiftLeft, Nat.shiftLeft_eq]

/-- Bit 31 of a word is set exactly when the word is at least 2^31. -/
theorem getLsbD_31_iff (a : Word) : a.getLsbD 31 = true ↔ 2 ^ 31 ≤ a.toNat := by
  rw [← BitVec.msb_eq_getLsbD_last a, BitVec.msb_eq_decide, decide_eq_true_iff]

/-! ### The table (R51) -/

/-- One round of R51 on a number below 2^32. -/
def numericRound (a : Nat) : Nat :=
  if 2 ^ 31 ≤ a then ((2 * a) % 2 ^ 32) ^^^ 0x04C11DB7 else (2 * a) % 2 ^ 32

theorem tableRound_toNat (a : Word) : (tableRound a).toNat = numericRound a.toNat := by
  have hdouble : (a <<< 1).toNat = (2 * a.toNat) % 2 ^ 32 := by
    rw [toNat_shiftLeft_eq_mod, Nat.pow_one, Nat.mul_comm]
  by_cases htop : a.getLsbD 31 = true
  · rw [tableRound, if_pos htop, numericRound, if_pos ((getLsbD_31_iff a).1 htop), BitVec.toNat_xor,
      hdouble]
    rfl
  · rw [tableRound, if_neg htop, numericRound, if_neg (mt (getLsbD_31_iff a).2 htop), hdouble]

theorem tableRounds_eq_iterate (n : Nat) (a : Word) : tableRounds n a = tableRound^[n] a := by
  induction n generalizing a with
  | zero => rfl
  | succ n ih => rw [tableRounds, ih, Function.iterate_succ_apply]

theorem tableRounds_toNat (n : Nat) (a : Word) :
    (tableRounds n a).toNat = numericRound^[n] a.toNat := by
  have hround : Function.Semiconj BitVec.toNat tableRound numericRound := tableRound_toNat
  rw [tableRounds_eq_iterate, (hround.iterate_right n).eq]

/-- A byte placed in bits 31:24 of a word has the value `i × 2^24`. -/
theorem toNat_topByte (i : Byte) : (i.setWidth 32 <<< 24).toNat = i.toNat * 2 ^ 24 := by
  rw [toNat_shiftLeft_eq_mod, BitVec.toNat_setWidth]
  omega

/-- Settles O27: a table entry is eight rounds on a word, and each is a numeric round. -/
theorem tableEntryIsEightRounds : Obligations.TableEntryIsEightRounds := by
  intro i
  calc (tableEntry i).toNat
    _ = numericRound^[8] (i.setWidth 32 <<< 24).toNat := tableRounds_toNat 8 _
    _ = numericRound^[8] (i.toNat * 2 ^ 24) := by rw [toNat_topByte]

/-! ### The update (R52) -/

/-- The table index of R52: the accumulator's top byte XOR the data byte. -/
theorem tableIndex_eq_ofNat (a : Word) (b : Byte) :
    (a >>> 24).setWidth 8 ^^^ b = BitVec.ofNat 8 ((a.toNat / 2 ^ 24) ^^^ b.toNat) := by
  have htop : (a >>> 24).setWidth 8 = BitVec.ofNat 8 (a.toNat / 2 ^ 24) := by
    rw [← BitVec.ofNat_toNat, BitVec.toNat_ushiftRight, Nat.shiftRight_eq_div_pow]
  rw [htop, BitVec.ofNat_xor, BitVec.ofNat_toNat, BitVec.setWidth_eq]

theorem crcStep_toNat (a : Word) (b : Byte) :
    (crcStep a b).toNat = ((a.toNat * 2 ^ 8) % 2 ^ 32) ^^^
      (tableEntry (BitVec.ofNat 8 ((a.toNat / 2 ^ 24) ^^^ b.toNat))).toNat := by
  rw [crcStep, BitVec.toNat_xor, toNat_shiftLeft_eq_mod, tableIndex_eq_ofNat]

@[simp] theorem crcUpdate_nil (a : Word) : crcUpdate a [] = a := rfl

@[simp] theorem crcUpdate_cons (a : Word) (x : Byte) (rest : ByteBuffer) :
    crcUpdate a (x :: rest) = crcUpdate (crcStep a x) rest := rfl

/-- A buffer is taken in order: first the bytes of the front part, then those of the back part (R52). -/
theorem crcUpdate_append (a : Word) (x y : ByteBuffer) :
    crcUpdate a (x ++ y) = crcUpdate (crcUpdate a x) y := by
  induction x generalizing a with
  | nil => rfl
  | cons b x ih => rw [List.cons_append, crcUpdate_cons, ih, crcUpdate_cons]

/-- Settles O28: one step as numbers, and the order of the bytes by `crcUpdate_append` at a last byte. -/
theorem checksumUpdateFollowsItsRule : Obligations.ChecksumUpdateFollowsItsRule := by
  refine ⟨crcStep_toNat, crcUpdate_nil, fun a data b => ?lastByteLast⟩
  case lastByteLast => rw [crcUpdate_append, crcUpdate_cons, crcUpdate_nil]

/-! ### CKSUM (R53) -/

theorem exec_cksum_of_none {s : State} (h : s.mem.s0 = none) :
    exec .cksum s = .next (raise .inputNotFound s) :=
  exec_of_error ((cksumResults_error_iff s _).2 ⟨h, rfl⟩)

theorem exec_cksum_of_some {s : State} {data : ByteBuffer} (h : s.mem.s0 = some data) :
    exec .cksum s = .next (commit [.s0] { crc := some (crcUpdate s.seed data) } s) :=
  exec_of_ok ((cksumResults_ok_iff s _).2 ⟨data, h, rfl⟩)

/-- Settles O29: the next state is `raise` or `commit` written out; STATUS follows from the three valid
bits, of which only CRCV is set. -/
theorem checksumCommandFollowsItsRule : Obligations.ChecksumCommandFollowsItsRule := by
  refine ⟨by decide, fun s => ⟨fun hnone => ?missing, fun data hdata =>
    ⟨_, rfl, ?committed, ?status, fun hempty => ?emptyBuffer⟩⟩⟩
  case missing => rw [exec_cksum_of_none hnone, raise, errorCode]
  case committed => exact exec_cksum_of_some hdata
  case status => exact statusWord_of_ok rfl
  case emptyBuffer => rw [hempty, crcUpdate_nil]

end Sys2Proof.Machine
end

section
/-!
PROOFS. The interleave engine (41_interleave.md R57 to R63). For each function on buffers: how long its
result is, and which byte of an operand stands at each index of it. The commands are then assembled from
these, from the two ends of a command (`exec_of_error`, `exec_of_ok`), and from STATUS as its valid
bits.
-/

namespace Sys2Proof.Machine

/-! ### The two halves of a buffer (R56, R57, R63) -/

theorem two_mul_half_le (buf : ByteBuffer) : 2 * half buf ≤ buf.length :=
  Nat.mul_div_le buf.length 2

theorem equalSplit_fst_length (buf : ByteBuffer) : (equalSplit buf).1.length = half buf :=
  slice_length buf 0 (half buf) (Nat.div_le_self _ _)

theorem equalSplit_snd_length (buf : ByteBuffer) : (equalSplit buf).2.length = half buf := by
  rw [equalSplit, slice_length buf _ _ (two_mul_half_le buf)]
  omega

theorem equalSplit_fst_getElem? (buf : ByteBuffer) {i : Nat} (hi : i < half buf) :
    (equalSplit buf).1[i]? = buf[i]? := by
  rw [equalSplit, slice_getElem? buf 0 _ i (by omega), Nat.zero_add]

theorem equalSplit_snd_getElem? (buf : ByteBuffer) {i : Nat} (hi : i < half buf) :
    (equalSplit buf).2[i]? = buf[half buf + i]? :=
  slice_getElem? buf (half buf) (2 * half buf) i (by omega)

/-- SWAPH joins the two results of ESPLIT, the second first (R63, R65 item 6). -/
theorem swapHalves_eq_append (buf : ByteBuffer) :
    swapHalves buf = (equalSplit buf).2 ++ (equalSplit buf).1 := rfl

theorem swapHalves_length (buf : ByteBuffer) : (swapHalves buf).length = 2 * half buf := by
  rw [swapHalves_eq_append, List.length_append, equalSplit_fst_length, equalSplit_snd_length,
    Nat.two_mul]

theorem swapHalves_getElem?_first (buf : ByteBuffer) {i : Nat} (hi : i < half buf) :
    (swapHalves buf)[i]? = buf[half buf + i]? := by
  rw [swapHalves_eq_append, List.getElem?_append_left (by rwa [equalSplit_snd_length]),
    equalSplit_snd_getElem? buf hi]

theorem swapHalves_getElem?_second (buf : ByteBuffer) {i : Nat} (hi : i < half buf) :
    (swapHalves buf)[half buf + i]? = buf[i]? := by
  rw [swapHalves_eq_append, ← equalSplit_snd_length buf,
    List.getElem?_append_right (Nat.le_add_right _ _), Nat.add_sub_cancel_left,
    equalSplit_fst_getElem? buf hi]

/-! ### Pairs of bytes (R58, R60) -/

theorem byteDeinterleave_length : ∀ buf : ByteBuffer,
    (byteDeinterleave buf).1.length = buf.length / 2 ∧
      (byteDeinterleave buf).2.length = buf.length / 2
  | [] | [_] => by simp [byteDeinterleave]
  | x :: y :: rest => by
    obtain ⟨heven, hodd⟩ := byteDeinterleave_length rest
    simp only [byteDeinterleave, List.length_cons, heven, hodd]
    omega

theorem byteDeinterleave_getElem? : ∀ (buf : ByteBuffer) (k : Nat), k < buf.length / 2 →
    (byteDeinterleave buf).1[k]? = buf[2 * k]? ∧ (byteDeinterleave buf).2[k]? = buf[2 * k + 1]?
  | [], k, hk | [_], k, hk => by simp at hk
  | x :: y :: rest, 0, _ => ⟨rfl, rfl⟩
  | x :: y :: rest, k + 1, hk =>
    byteDeinterleave_getElem? rest k (by simp only [List.length_cons] at hk; omega)

theorem byteFlip_length : ∀ buf : ByteBuffer, (byteFlip buf).length = 2 * (buf.length / 2)
  | [] | [_] => by simp [byteFlip]
  | x :: y :: rest => by
    simp only [byteFlip, List.length_cons, byteFlip_length rest]
    omega

theorem byteFlip_getElem? : ∀ (buf : ByteBuffer) (k : Nat), k < buf.length / 2 →
    (byteFlip buf)[2 * k]? = buf[2 * k + 1]? ∧ (byteFlip buf)[2 * k + 1]? = buf[2 * k]?
  | [], k, hk | [_], k, hk => by simp at hk
  | x :: y :: rest, 0, _ => ⟨rfl, rfl⟩
  | x :: y :: rest, k + 1, hk =>
    byteFlip_getElem? rest k (by simp only [List.length_cons] at hk; omega)

/-! ### Groups of four bytes (R59) -/

theorem wordDeinterleave_length : ∀ buf : ByteBuffer,
    (wordDeinterleave buf).1.length = 2 * (buf.length / 4) ∧
      (wordDeinterleave buf).2.length = 2 * (buf.length / 4)
  | [] | [_] | [_, _] | [_, _, _] => by simp [wordDeinterleave]
  | w :: x :: y :: z :: rest => by
    obtain ⟨hfirst, hsecond⟩ := wordDeinterleave_length rest
    simp only [wordDeinterleave, List.length_cons, hfirst, hsecond]
    omega

theorem wordDeinterleave_getElem? : ∀ (buf : ByteBuffer) (k : Nat), k < buf.length / 4 →
    (wordDeinterleave buf).1[2 * k]? = buf[4 * k]? ∧
      (wordDeinterleave buf).1[2 * k + 1]? = buf[4 * k + 1]? ∧
      (wordDeinterleave buf).2[2 * k]? = buf[4 * k + 2]? ∧
      (wordDeinterleave buf).2[2 * k + 1]? = buf[4 * k + 3]?
  | [], k, hk | [_], k, hk | [_, _], k, hk | [_, _, _], k, hk => by simp at hk
  | w :: x :: y :: z :: rest, 0, _ => ⟨rfl, rfl, rfl, rfl⟩
  | w :: x :: y :: z :: rest, k + 1, hk =>
    wordDeinterleave_getElem? rest k (by simp only [List.length_cons] at hk; omega)

/-! ### Merges (R61, R62) -/

theorem byteInterleave2_length : ∀ {a b : ByteBuffer}, a.length = b.length →
    (byteInterleave2 a b).length = 2 * a.length
  | [], [], _ => rfl
  | x :: as, y :: bs, hab => by
    simp only [byteInterleave2, List.length_cons, byteInterleave2_length (Nat.succ.inj hab)]
    omega

theorem byteInterleave2_getElem? : ∀ {a b : ByteBuffer}, a.length = b.length → ∀ k < a.length,
    (byteInterleave2 a b)[2 * k]? = a[k]? ∧ (byteInterleave2 a b)[2 * k + 1]? = b[k]?
  | _ :: _, _ :: _, _, 0, _ => ⟨rfl, rfl⟩
  | _ :: _, _ :: _, hab, k + 1, hk =>
    byteInterleave2_getElem? (Nat.succ.inj hab) k (Nat.lt_of_succ_lt_succ hk)

theorem byteInterleave4_length : ∀ {a b c d : ByteBuffer},
    a.length = b.length → b.length = c.length → c.length = d.length →
    (byteInterleave4 a b c d).length = 4 * a.length
  | [], [], [], [], _, _, _ => rfl
  | w :: as, x :: bs, y :: cs, z :: ds, hab, hbc, hcd => by
    simp only [byteInterleave4, List.length_cons,
      byteInterleave4_length (Nat.succ.inj hab) (Nat.succ.inj hbc) (Nat.succ.inj hcd)]
    omega

theorem byteInterleave4_getElem? : ∀ {A B C D : ByteBuffer},
    A.length = B.length → B.length = C.length → C.length = D.length → ∀ k < A.length,
    (byteInterleave4 A B C D)[4 * k]? = A[k]? ∧ (byteInterleave4 A B C D)[4 * k + 1]? = B[k]? ∧
      (byteInterleave4 A B C D)[4 * k + 2]? = C[k]? ∧ (byteInterleave4 A B C D)[4 * k + 3]? = D[k]?
  | _ :: _, _ :: _, _ :: _, _ :: _, _, _, _, 0, _ => ⟨rfl, rfl, rfl, rfl⟩
  | _ :: _, _ :: _, _ :: _, _ :: _, hab, hbc, hcd, k + 1, hk =>
    byteInterleave4_getElem? (Nat.succ.inj hab) (Nat.succ.inj hbc) (Nat.succ.inj hcd) k
      (Nat.lt_of_succ_lt_succ hk)

/-! ### The commits (R48): what each command answers when its checks pass -/

theorem exec_esplit_of_some {s : State} {buf : ByteBuffer} (h : s.mem.s0 = some buf) :
    exec .esplit s = .next (commit [.s0]
      { d0 := some (equalSplit buf).1, d1 := some (equalSplit buf).2 } s) :=
  exec_of_ok ((esplitResults_ok_iff s _).2 ⟨buf, h, rfl⟩)

theorem exec_bdeint_of_some {s : State} {buf : ByteBuffer} (h : s.mem.s0 = some buf) :
    exec .bdeint s = .next (commit [.s0]
      { d0 := some (byteDeinterleave buf).1, d1 := some (byteDeinterleave buf).2 } s) :=
  exec_of_ok ((bdeintResults_ok_iff s _).2 ⟨buf, h, rfl⟩)

theorem exec_wdeint_of_some {s : State} {buf : ByteBuffer} (h : s.mem.s0 = some buf)
    (hlen : buf.length % 4 = 0) :
    exec .wdeint s = .next (commit [.s0]
      { d0 := some (wordDeinterleave buf).1, d1 := some (wordDeinterleave buf).2 } s) :=
  exec_of_ok ((wdeintResults_ok_iff s _).2 ⟨buf, h, hlen, rfl⟩)

theorem exec_bflip_of_some {s : State} {buf : ByteBuffer} (h : s.mem.s0 = some buf)
    (heven : buf.length % 2 = 0) :
    exec .bflip s = .next (commit [.s0] { d0 := some (byteFlip buf) } s) :=
  exec_of_ok ((bflipResults_ok_iff s _).2 ⟨buf, h, heven, rfl⟩)

theorem exec_bint2_of_some {s : State} {A B : ByteBuffer} (hA : s.mem.s0 = some A)
    (hB : s.mem.s1 = some B) (heq : A.length = B.length) (hfits : 2 * A.length ≤ s.cfg.bufmax) :
    exec .bint2 s = .next (commit [.s0, .s1] { d0 := some (byteInterleave2 A B) } s) :=
  exec_of_ok ((bint2Results_ok_iff s _).2 ⟨A, hA, B, hB, heq, hfits, rfl⟩)

theorem exec_bint4_of_some {s : State} {A B C D : ByteBuffer} (hA : s.mem.s0 = some A)
    (hB : s.mem.s1 = some B) (hC : s.mem.s2 = some C) (hD : s.mem.s3 = some D)
    (hab : A.length = B.length) (hbc : B.length = C.length) (hcd : C.length = D.length)
    (hfits : 4 * A.length ≤ s.cfg.bufmax) :
    exec .bint4 s = .next (commit [.s0, .s1, .s2, .s3]
      { d0 := some (byteInterleave4 A B C D) } s) :=
  exec_of_ok ((bint4Results_ok_iff s _).2
    ⟨A, hA, B, hB, C, hC, D, hD, ⟨⟨hab, hbc⟩, hcd⟩, hfits, rfl⟩)

theorem exec_swaph_of_some {s : State} {buf : ByteBuffer} (h : s.mem.s0 = some buf) :
    exec .swaph s = .next (commit [.s0] { d0 := some (swapHalves buf) } s) :=
  exec_of_ok ((swaphResults_ok_iff s _).2 ⟨buf, h, rfl⟩)

/-! ### The commands -/

/-- Settles O33: the two results are the slices at the half; STATUS has D0V and D1V. -/
theorem equalSplitCommandFollowsItsRule : Obligations.EqualSplitCommandFollowsItsRule := by
  refine ⟨by decide, fun s => ⟨fun hnone => ?missing, fun buf hbuf =>
    ⟨(equalSplit buf).1, (equalSplit buf).2, _, equalSplit_fst_length buf, equalSplit_snd_length buf,
      fun i hi => ⟨equalSplit_fst_getElem? buf hi, equalSplit_snd_getElem? buf hi⟩,
      rfl, ?committed, ?status⟩⟩⟩
  case missing =>
    exact exec_of_error (e := .inputNotFound) ((esplitResults_error_iff s _).2 ⟨hnone, rfl⟩)
  case committed => exact exec_esplit_of_some hbuf
  case status => exact statusWord_of_ok rfl

/-- Settles O34: pair by pair, the bytes at even and at odd indices; STATUS has D0V and D1V. -/
theorem byteDeinterleaveCommandFollowsItsRule :
    Obligations.ByteDeinterleaveCommandFollowsItsRule := by
  refine ⟨by decide, fun s => ⟨fun hnone => ?missing, fun buf hbuf => ?found⟩⟩
  case missing =>
    exact exec_of_error (e := .inputNotFound) ((bdeintResults_error_iff s _).2 ⟨hnone, rfl⟩)
  case found =>
    obtain ⟨heven, hodd⟩ := byteDeinterleave_length buf
    refine ⟨_, _, _, heven, hodd, byteDeinterleave_getElem? buf, rfl, ?committed, ?status⟩
    case committed => exact exec_bdeint_of_some hbuf
    case status => exact statusWord_of_ok rfl

/-- Settles O35: the length check first, then group by group the first and the second word. -/
theorem wordDeinterleaveCommandFollowsItsRule :
    Obligations.WordDeinterleaveCommandFollowsItsRule := by
  refine ⟨by decide, fun s => ⟨fun hnone => ?missing, fun buf hbuf hlen => ?mismatch,
    fun buf hbuf hlen => ?accepted⟩⟩
  case missing =>
    exact exec_of_error (e := .inputNotFound)
      ((wdeintResults_error_iff s _).2 (.inl ⟨hnone, rfl⟩))
  case mismatch =>
    exact exec_of_error (e := .sizeMismatch)
      ((wdeintResults_error_iff s _).2 (.inr ⟨buf, hbuf, hlen, rfl⟩))
  case accepted =>
    obtain ⟨hfirst, hsecond⟩ := wordDeinterleave_length buf
    refine ⟨_, _, _, hfirst, hsecond, wordDeinterleave_getElem? buf, rfl, ?committed, ?status⟩
    case committed => exact exec_wdeint_of_some hbuf hlen
    case status => exact statusWord_of_ok rfl

/-- Settles O36: the parity check first, then pair by pair the two bytes swapped; an even length is
kept whole. -/
theorem byteFlipCommandFollowsItsRule : Obligations.ByteFlipCommandFollowsItsRule := by
  refine ⟨by decide, fun s => ⟨fun hnone => ?missing, fun buf hbuf hodd => ?mismatch,
    fun buf hbuf heven => ⟨byteFlip buf, _, ?length, byteFlip_getElem? buf, rfl, ?committed,
      ?status⟩⟩⟩
  case missing =>
    exact exec_of_error (e := .inputNotFound)
      ((bflipResults_error_iff s _).2 (.inl ⟨hnone, rfl⟩))
  case mismatch =>
    exact exec_of_error (e := .sizeMismatch)
      ((bflipResults_error_iff s _).2 (.inr ⟨buf, hbuf, hodd, rfl⟩))
  case length => rw [byteFlip_length, Nat.mul_div_cancel' (Nat.dvd_of_mod_eq_zero heven)]
  case committed => exact exec_bflip_of_some hbuf heven
  case status => exact statusWord_of_ok rfl

/-- Settles O37: R61's three checks in their order, then the two buffers byte by byte. -/
theorem byteInterleave2CommandFollowsItsRule :
    Obligations.ByteInterleave2CommandFollowsItsRule := by
  refine ⟨by decide, fun s => ⟨fun hnone => ?missing, fun A B hA hB =>
    ⟨fun hne => ?mismatch, fun heq hlong => ?tooLong, fun heq hfits =>
      ⟨byteInterleave2 A B, _, byteInterleave2_length heq, byteInterleave2_getElem? heq, rfl,
        ?committed, ?status⟩⟩⟩⟩
  case missing =>
    exact exec_of_error (e := .inputNotFound)
      ((bint2Results_error_iff s _).2 (.inl ⟨hnone, rfl⟩))
  case mismatch =>
    exact exec_of_error (e := .sizeMismatch)
      ((bint2Results_error_iff s _).2 (.inr ⟨A, hA, B, hB, .inl ⟨hne, rfl⟩⟩))
  case tooLong =>
    exact exec_of_error (e := .allocationFailure)
      ((bint2Results_error_iff s _).2 (.inr ⟨A, hA, B, hB, .inr ⟨heq, hlong, rfl⟩⟩))
  case committed => exact exec_bint2_of_some hA hB heq hfits
  case status => exact statusWord_of_ok rfl

/-- Settles O38: R62's three checks in their order, then the four buffers byte by byte in turn. -/
theorem byteInterleave4CommandFollowsItsRule :
    Obligations.ByteInterleave4CommandFollowsItsRule := by
  refine ⟨by decide, fun s => ⟨fun hnone => ?missing, fun A B C D hA hB hC hD =>
    ⟨fun hne => ?mismatch, fun ⟨hab, hbc, hcd⟩ hlong => ?tooLong, fun ⟨hab, hbc, hcd⟩ hfits =>
      ⟨byteInterleave4 A B C D, _, byteInterleave4_length hab hbc hcd,
        byteInterleave4_getElem? hab hbc hcd, rfl, ?committed, ?status⟩⟩⟩⟩
  case missing =>
    exact exec_of_error (e := .inputNotFound)
      ((bint4Results_error_iff s _).2 (.inl ⟨hnone, rfl⟩))
  case mismatch =>
    exact exec_of_error (e := .sizeMismatch) ((bint4Results_error_iff s _).2
      (.inr ⟨A, hA, B, hB, C, hC, D, hD, .inl ⟨mt and_assoc.1 hne, rfl⟩⟩))
  case tooLong =>
    exact exec_of_error (e := .allocationFailure) ((bint4Results_error_iff s _).2
      (.inr ⟨A, hA, B, hB, C, hC, D, hD, .inr ⟨⟨⟨hab, hbc⟩, hcd⟩, hlong, rfl⟩⟩))
  case committed => exact exec_bint4_of_some hA hB hC hD hab hbc hcd hfits
  case status => exact statusWord_of_ok rfl

/-- Settles O39: the result is ESPLIT's second half, then its first; STATUS has D0V alone. -/
theorem swapHalvesCommandFollowsItsRule : Obligations.SwapHalvesCommandFollowsItsRule := by
  refine ⟨by decide, fun s => ⟨fun hnone => ?missing, fun buf hbuf =>
    ⟨swapHalves buf, _, swapHalves_length buf,
      fun i hi => ⟨swapHalves_getElem?_first buf hi, swapHalves_getElem?_second buf hi⟩,
      rfl, ?committed, ?status⟩⟩⟩
  case missing =>
    exact exec_of_error (e := .inputNotFound) ((swaphResults_error_iff s _).2 ⟨hnone, rfl⟩)
  case committed => exact exec_swaph_of_some hbuf
  case status => exact statusWord_of_ok rfl

end Sys2Proof.Machine
end

section
/-!
PROOFS. The bank splitter (42_bank_concat.md R66, R67). The two banks are given once per case of the
source, and bank1 is there exactly beyond one bank's bytes; BCAT is then assembled from these, from the
two ends of a command (`exec_of_error`, `exec_of_ok`), and from STATUS as its valid bits.
-/

namespace Sys2Proof.Machine

/-! ### The two ends of a range (R9) -/

theorem slice_zero_eq_take (b : ByteBuffer) (j : Nat) : slice b 0 j = b.take j := rfl

theorem slice_length_eq_drop (b : ByteBuffer) (i : Nat) : slice b i b.length = b.drop i := by
  rw [slice, List.take_length]

/-! ### The two banks (R66) -/

/-- Case 1 of R66: the first operand alone exceeds a bank. -/
theorem bankSplit_of_cap_lt_fst {cap : Nat} {a : ByteBuffer} (h : cap < a.length) (b : ByteBuffer) :
    bankSplit cap a b = (a.take cap, some (a.drop cap ++ b)) := by
  rw [bankSplit, if_pos h, slice_zero_eq_take, slice_length_eq_drop]

/-- Case 2 of R66 where everything fits one bank. -/
theorem bankSplit_of_total_le {cap : Nat} {a b : ByteBuffer} (h : a.length + b.length ≤ cap) :
    bankSplit cap a b = (a ++ b, none) := by
  have hfst : ¬ cap < a.length := by omega
  rw [bankSplit, if_neg hfst, if_pos h]

/-- Case 2 of R66 where the second operand overflows into the second bank. -/
theorem bankSplit_of_overflow {cap : Nat} {a b : ByteBuffer} (hfst : a.length ≤ cap)
    (htotal : cap < a.length + b.length) :
    bankSplit cap a b = (a ++ b.take (b.length - (a.length + b.length - cap)),
      some (b.drop (b.length - (a.length + b.length - cap)))) := by
  rw [bankSplit, if_neg (Nat.not_lt.2 hfst), if_neg (Nat.not_le.2 htotal)]
  simp only [slice_zero_eq_take, slice_length_eq_drop]

/-- Bank1 is produced exactly when the total exceeds a bank (R67). -/
theorem bankSplit_snd_isSome_iff (cap : Nat) (a b : ByteBuffer) :
    (bankSplit cap a b).2.isSome ↔ cap < a.length + b.length := by
  rcases Nat.lt_or_ge cap (a.length + b.length) with htotal | htotal
  · rcases Nat.lt_or_ge cap a.length with hfst | hfst
    · simp [bankSplit_of_cap_lt_fst hfst, htotal]
    · simp [bankSplit_of_overflow hfst htotal, htotal]
  · simp [bankSplit_of_total_le htotal, htotal]

/-! ### BCAT (R66, R67) -/

theorem exec_bcat_of_some {s : State} {A B : ByteBuffer} (hA : s.mem.s0 = some A)
    (hB : s.mem.s1 = some B) (htotal : A.length + B.length ≤ 2 * s.cfg.cap) :
    exec .bcat s = .next (commit [.s0, .s1]
      { d0 := some (bankSplit s.cfg.cap A B).1, d1 := (bankSplit s.cfg.cap A B).2 } s) :=
  exec_of_ok ((bcatResults_ok_iff s _).2 ⟨A, hA, B, hB, htotal, rfl⟩)

/-- STATUS after a command that leaves a first bank and no CRC: D0V, and D1V if there is a second (R18). -/
theorem statusWord_of_banks {t : State} (hcode : t.code = 0#4) (hd0 : t.mem.d0.isSome)
    (hcrc : t.crc = none) : statusWord t = if t.mem.d1.isSome then 0x300#32 else 0x100#32 := by
  rw [statusWord_of_ok hcode, hd0, hcrc]
  cases t.mem.d1.isSome <;> rfl

/-- Settles O43: the two checks in their order, then the banks case by case; D1V of STATUS is whether
there is a bank1. -/
theorem bankConcatCommandFollowsItsRule : Obligations.BankConcatCommandFollowsItsRule := by
  refine ⟨by decide, fun s => ⟨fun hnone => ?missing, fun A B hA hB =>
    ⟨fun hlong => ?tooLong, fun htotal =>
      ⟨(bankSplit s.cfg.cap A B).1, (bankSplit s.cfg.cap A B).2, _, fun hfst => ?firstOverflows,
        fun _ hfits => ?oneBank, fun hfst hover => ?secondOverflows, rfl, ?committed, ?status⟩⟩⟩⟩
  case missing =>
    exact exec_of_error (e := .inputNotFound) ((bcatResults_error_iff s _).2 (.inl ⟨hnone, rfl⟩))
  case tooLong =>
    exact exec_of_error (e := .sizeOutOfRange)
      ((bcatResults_error_iff s _).2 (.inr ⟨A, hA, B, hB, hlong, rfl⟩))
  case firstOverflows => exact Prod.ext_iff.1 (bankSplit_of_cap_lt_fst hfst B)
  case oneBank => exact Prod.ext_iff.1 (bankSplit_of_total_le hfits)
  case secondOverflows => exact Prod.ext_iff.1 (bankSplit_of_overflow hfst hover)
  case committed => exact exec_bcat_of_some hA hB htotal
  case status => simp only [statusWord_of_banks, bankSplit_snd_isSome_iff, Option.isSome_some]

end Sys2Proof.Machine
end

section
/-!
PROOFS. The word merge (43_word_merge.md R70, R71). How long the merged buffer is, and which byte of an
operand stands at each index of it, word pair by word pair; WMERGE is then assembled from these, from
the two ends of a command (`exec_of_error`, `exec_of_ok`), and from STATUS as its valid bits.
-/

namespace Sys2Proof.Machine

/-! ### The merged words (R70) -/

/-- Every pair of whole words gives four bytes; a last odd byte of each operand would be in none. -/
theorem wordMerge_length : ∀ {a b : ByteBuffer}, a.length = b.length →
    (wordMerge a b).length = 4 * (a.length / 2)
  | [], _, _ | [_], _, _ => by simp [wordMerge]
  | _ :: _ :: as, _ :: _ :: bs, hab => by
    simp only [List.length_cons, Nat.add_right_cancel_iff] at hab
    simp only [wordMerge, List.length_cons, wordMerge_length hab]
    omega

/-- With whole words alone, the result is twice as long as each operand (R70). -/
theorem wordMerge_length_of_even {a b : ByteBuffer} (hab : a.length = b.length)
    (heven : a.length % 2 = 0) : (wordMerge a b).length = 2 * a.length := by
  rw [wordMerge_length hab]
  omega

theorem wordMerge_getElem? : ∀ {a b : ByteBuffer}, a.length = b.length → ∀ k < a.length / 2,
    (wordMerge a b)[4 * k]? = a[2 * k]? ∧ (wordMerge a b)[4 * k + 1]? = a[2 * k + 1]? ∧
      (wordMerge a b)[4 * k + 2]? = b[2 * k]? ∧ (wordMerge a b)[4 * k + 3]? = b[2 * k + 1]?
  | [], _, _, _, hk | [_], _, _, _, hk => by simp at hk
  | _ :: _ :: _, _ :: _ :: _, _, 0, _ => ⟨rfl, rfl, rfl, rfl⟩
  | _ :: _ :: _, _ :: _ :: _, hab, k + 1, hk =>
    wordMerge_getElem? (Nat.succ.inj (Nat.succ.inj hab)) k
      (by simp only [List.length_cons] at hk; omega)

/-! ### WMERGE (R70, R71) -/

theorem exec_wmerge_of_some {s : State} {A B : ByteBuffer} (hA : s.mem.s0 = some A)
    (hB : s.mem.s1 = some B) (heq : A.length = B.length) (heven : A.length % 2 = 0)
    (hfits : 2 * A.length ≤ s.cfg.bufmax) :
    exec .wmerge s = .next (commit [.s0, .s1] { d0 := some (wordMerge A B) } s) :=
  exec_of_ok ((wmergeResults_ok_iff s _).2 ⟨A, hA, B, hB, heq, heven, hfits, rfl⟩)

/-- Settles O47: R70's checks in their order, then the two buffers word by word; STATUS has D0V alone. -/
theorem wordMergeCommandFollowsItsRule : Obligations.WordMergeCommandFollowsItsRule := by
  refine ⟨by decide, fun s => ⟨fun hnone => ?missing, fun A B hA hB =>
    ⟨fun hwrong => ?mismatch, fun heq heven hlong => ?tooLong, fun heq heven hfits =>
      ⟨wordMerge A B, _, wordMerge_length_of_even heq heven, wordMerge_getElem? heq, rfl,
        ?committed, ?status⟩⟩⟩⟩
  case missing =>
    exact exec_of_error (e := .inputNotFound)
      ((wmergeResults_error_iff s _).2 (.inl ⟨hnone, rfl⟩))
  case mismatch =>
    exact exec_of_error (e := .sizeMismatch)
      ((wmergeResults_error_iff s _).2 (.inr ⟨A, hA, B, hB, .inl ⟨hwrong, rfl⟩⟩))
  case tooLong =>
    exact exec_of_error (e := .allocationFailure)
      ((wmergeResults_error_iff s _).2 (.inr ⟨A, hA, B, hB, .inr ⟨heq, heven, hlong, rfl⟩⟩))
  case committed => exact exec_wmerge_of_some hA hB heq heven hfits
  case status => exact statusWord_of_ok rfl

end Sys2Proof.Machine
end

section
/-!
PROOFS. The patch overlay (44_patch.md R72). The overlay is two pieces of given length, so which byte
stands at an index depends on which side of SIZE it is; PATCH is then assembled from this, from the two
ends of a command (`exec_of_error`, `exec_of_ok`), and from STATUS as its valid bits.
-/

namespace Sys2Proof.Machine

/-! ### The overlay (R72) -/

theorem overlay_eq_take_append_drop (base patch : ByteBuffer) (size : Nat) :
    overlay base patch size = patch.take size ++ base.drop size := by
  rw [overlay, slice_zero_eq_take, slice_length_eq_drop]

/-- The patch replaces as many bytes as it brings: the base is never resized (R72). -/
theorem overlay_length {base patch : ByteBuffer} {size : Nat} (hpatch : size ≤ patch.length)
    (hbase : size ≤ base.length) : (overlay base patch size).length = base.length := by
  rw [overlay_eq_take_append_drop, List.length_append, List.length_take_of_le hpatch,
    List.length_drop, Nat.add_sub_of_le hbase]

theorem overlay_getElem?_of_lt (base : ByteBuffer) {patch : ByteBuffer} {size i : Nat}
    (hpatch : size ≤ patch.length) (hi : i < size) : (overlay base patch size)[i]? = patch[i]? := by
  have hinside : i < (patch.take size).length := by rwa [List.length_take_of_le hpatch]
  rw [overlay_eq_take_append_drop, List.getElem?_append_left hinside, List.getElem?_take_of_lt hi]

theorem overlay_getElem?_of_le (base : ByteBuffer) {patch : ByteBuffer} {size i : Nat}
    (hpatch : size ≤ patch.length) (hi : size ≤ i) : (overlay base patch size)[i]? = base[i]? := by
  have hlen : (patch.take size).length = size := List.length_take_of_le hpatch
  rw [overlay_eq_take_append_drop, List.getElem?_append_right (hlen.trans_le hi), hlen,
    List.getElem?_drop, Nat.add_sub_of_le hi]

/-! ### PATCH (R72) -/

theorem exec_patch_of_some {s : State} {base patch : ByteBuffer} (hbase : s.mem.s0 = some base)
    (hpatch : s.mem.s1 = some patch) (hinPatch : s.size.toNat ≤ patch.length)
    (hinBase : s.size.toNat ≤ base.length) :
    exec .patch s = .next (commit [.s0, .s1]
      { d0 := some (overlay base patch s.size.toNat) } s) :=
  exec_of_ok ((patchResults_ok_iff s _).2 ⟨base, hbase, patch, hpatch, hinPatch, hinBase, rfl⟩)

/-- Settles O48: the checks of R72, then the overlay byte by byte, on either side of SIZE; STATUS has
D0V alone. -/
theorem patchCommandFollowsItsRule : Obligations.PatchCommandFollowsItsRule := by
  refine ⟨by decide, fun s => ⟨fun hnone => ?missing, fun base patch hbase hpatch =>
    ⟨fun hbeyond => ?outOfRange, fun hinPatch hinBase =>
      ⟨overlay base patch s.size.toNat, _, overlay_length hinPatch hinBase,
        fun _ => overlay_getElem?_of_lt base hinPatch, fun _ => overlay_getElem?_of_le base hinPatch,
        rfl, ?committed, ?status⟩⟩⟩⟩
  case missing =>
    exact exec_of_error (e := .inputNotFound)
      ((patchResults_error_iff s _).2 (.inl ⟨hnone, rfl⟩))
  case outOfRange =>
    exact exec_of_error (e := .sizeOutOfRange)
      ((patchResults_error_iff s _).2 (.inr ⟨base, hbase, patch, hpatch, hbeyond, rfl⟩))
  case committed => exact exec_patch_of_some hbase hpatch hinPatch hinBase
  case status => exact statusWord_of_ok rfl

end Sys2Proof.Machine
end

section
/-!
PROOFS. The padding fill (45_pad.md R74). The padded buffer is the buffer and then a run of one byte, so
which byte stands at an index depends on which side of the buffer's end it is; PAD is then assembled from
this, from the two ends of a command (`exec_of_error`, `exec_of_ok`), and from STATUS as its valid bits.
-/

namespace Sys2Proof.Machine

/-! ### The padded buffer (R74) -/

theorem padTo_length {buf : ByteBuffer} {target : Nat} (h : buf.length ≤ target) (v : Byte) :
    (padTo buf target v).length = target := by
  rw [padTo, rep, List.length_append, List.length_replicate, Nat.add_sub_of_le h]

theorem padTo_getElem?_of_lt {buf : ByteBuffer} {i : Nat} (hi : i < buf.length) (target : Nat)
    (v : Byte) : (padTo buf target v)[i]? = buf[i]? :=
  List.getElem?_append_left hi

theorem padTo_getElem?_of_le {buf : ByteBuffer} {target i : Nat} (hpast : buf.length ≤ i)
    (hi : i < target) (v : Byte) : (padTo buf target v)[i]? = some v := by
  rw [padTo, rep, List.getElem?_append_right hpast, List.getElem?_replicate_of_lt]
  omega

/-! ### PAD (R74) -/

theorem exec_pad_of_some {s : State} {buf : ByteBuffer} (hbuf : s.mem.s0 = some buf)
    (htarget : buf.length ≤ s.size.toNat) (hfits : s.size.toNat ≤ s.cfg.bufmax) :
    exec .pad s = .next (commit [.s0] { d0 := some (padTo buf s.size.toNat s.fill) } s) :=
  exec_of_ok ((padResults_ok_iff s _).2 ⟨buf, hbuf, htarget, hfits, rfl⟩)

/-- Settles O51: R74's checks in their order, then the buffer and the fill byte by byte, on either side
of the buffer's end; STATUS has D0V alone. -/
theorem padCommandFollowsItsRule : Obligations.PadCommandFollowsItsRule := by
  refine ⟨by decide, fun s => ⟨fun hnone => ?missing, fun buf hbuf =>
    ⟨fun hshort => ?outOfRange, fun htarget hbeyond => ?tooLong, fun htarget hfits =>
      ⟨padTo buf s.size.toNat s.fill, _, padTo_length htarget s.fill,
        fun _ hi => padTo_getElem?_of_lt hi s.size.toNat s.fill,
        fun _ hi hlt => padTo_getElem?_of_le hi hlt s.fill, rfl, ?committed, ?status⟩⟩⟩⟩
  case missing =>
    exact exec_of_error (e := .inputNotFound) ((padResults_error_iff s _).2 (.inl ⟨hnone, rfl⟩))
  case outOfRange =>
    exact exec_of_error (e := .sizeOutOfRange)
      ((padResults_error_iff s _).2 (.inr ⟨buf, hbuf, .inl ⟨hshort, rfl⟩⟩))
  case tooLong =>
    exact exec_of_error (e := .allocationFailure)
      ((padResults_error_iff s _).2 (.inr ⟨buf, hbuf, .inr ⟨htarget, hbeyond, rfl⟩⟩))
  case committed => exact exec_pad_of_some hbuf htarget hfits
  case status => exact statusWord_of_ok rfl

end Sys2Proof.Machine
end

section
/-!
PROOFS. The errors (60_exceptions.md R76 to R79, R86). An empty source slot decides what a command's
checks answer, whichever slot it is; and no check of any command raises IoFailure. That a step writes no
unused code follows from the second: a step keeps CODE, or runs a command, or resets.
-/

namespace Sys2Proof.Machine

/-! ### A failed command (R86) -/

/-- A command that ends with a code other than 0 has raised an error: a commit writes 0. -/
theorem exec_eq_raise_of_code_ne_ok {i : Instr} {s t : State} (h : exec i s = .next t)
    (hcode : t.code ≠ 0#4) : ∃ e, t = raise e s := by
  rcases exec_cases i s t h with ⟨e, -, hraise⟩ | ⟨r, -, hcommit⟩
  · exact ⟨e, hraise⟩
  · rw [hcommit] at hcode
    exact absurd (commit_code _ r s) hcode

/-- Settles O16: a command that fails ends in `raise`, which writes CODE alone. -/
theorem failedCommandChangesOnlyCode : Obligations.FailedCommandChangesOnlyCode := by
  refine ⟨fun e s => rfl, fun i s t h hcode => ?_⟩
  obtain ⟨e, rfl⟩ := exec_eq_raise_of_code_ne_ok h hcode
  rfl

/-! ### A missing operand (R78, R85) -/

theorem s0_eq_none_of_mem {m : Memory} {n : SrcSlot} (hn : n ∈ [SrcSlot.s0])
    (hnone : srcSlot m n = none) : m.s0 = none := by
  obtain rfl := List.mem_singleton.1 hn
  exact hnone

theorem s0_or_s1_eq_none_of_mem {m : Memory} {n : SrcSlot} (hn : n ∈ [SrcSlot.s0, SrcSlot.s1])
    (hnone : srcSlot m n = none) : m.s0 = none ∨ m.s1 = none := by
  rcases List.mem_pair.1 hn with rfl | rfl
  · exact .inl hnone
  · exact .inr hnone

theorem exists_src_eq_none {m : Memory} {n : SrcSlot} (hnone : srcSlot m n = none) :
    m.s0 = none ∨ m.s1 = none ∨ m.s2 = none ∨ m.s3 = none := by
  cases n with
  | s0 => exact .inl hnone
  | s1 => exact .inr (.inl hnone)
  | s2 => exact .inr (.inr (.inl hnone))
  | s3 => exact .inr (.inr (.inr hnone))

/-- The operands are checked before lengths, parameters and BUFMAX (R85): if any slot a command
reads is empty, its checks raise InputNotFound. -/
theorem resultsOf_of_missing {i : Instr} {s : State} {n : SrcSlot} (hn : n ∈ sourceSlots i)
    (hnone : srcSlot s.mem n = none) : resultsOf i s = .error .inputNotFound := by
  cases i with
  | cksum => exact (cksumResults_error_iff s _).2 ⟨s0_eq_none_of_mem hn hnone, rfl⟩
  | esplit => exact (esplitResults_error_iff s _).2 ⟨s0_eq_none_of_mem hn hnone, rfl⟩
  | bdeint => exact (bdeintResults_error_iff s _).2 ⟨s0_eq_none_of_mem hn hnone, rfl⟩
  | wdeint => exact (wdeintResults_error_iff s _).2 (.inl ⟨s0_eq_none_of_mem hn hnone, rfl⟩)
  | bflip => exact (bflipResults_error_iff s _).2 (.inl ⟨s0_eq_none_of_mem hn hnone, rfl⟩)
  | bint2 => exact (bint2Results_error_iff s _).2 (.inl ⟨s0_or_s1_eq_none_of_mem hn hnone, rfl⟩)
  | bint4 => exact (bint4Results_error_iff s _).2 (.inl ⟨exists_src_eq_none hnone, rfl⟩)
  | swaph => exact (swaphResults_error_iff s _).2 ⟨s0_eq_none_of_mem hn hnone, rfl⟩
  | bcat => exact (bcatResults_error_iff s _).2 (.inl ⟨s0_or_s1_eq_none_of_mem hn hnone, rfl⟩)
  | wmerge => exact (wmergeResults_error_iff s _).2 (.inl ⟨s0_or_s1_eq_none_of_mem hn hnone, rfl⟩)
  | patch => exact (patchResults_error_iff s _).2 (.inl ⟨s0_or_s1_eq_none_of_mem hn hnone, rfl⟩)
  | pad => exact (padResults_error_iff s _).2 (.inl ⟨s0_eq_none_of_mem hn hnone, rfl⟩)

/-- A command one of whose source slots is empty raises InputNotFound, with the next state written out
(R78). -/
theorem exec_of_missing {i : Instr} {s : State} {n : SrcSlot} (hn : n ∈ sourceSlots i)
    (hnone : srcSlot s.mem n = none) : exec i s = .next { s with code := 1#4 } :=
  exec_of_error (resultsOf_of_missing hn hnone)

/-- Every command reads S0 (R44). -/
theorem s0_mem_sourceSlots (i : Instr) : SrcSlot.s0 ∈ sourceSlots i := by cases i <;> decide

/-- Settles O20: each clause names a slot that the command reads, and any such slot will do. -/
theorem missingOperandIsReportedFirst : Obligations.MissingOperandIsReportedFirst := by
  refine fun i s => ⟨fun h0 => ?s0, fun hi h1 => ?s1, fun hi h23 => ?s2s3⟩
  case s0 => exact exec_of_missing (n := .s0) (s0_mem_sourceSlots i) h0
  case s1 =>
    have hmem : SrcSlot.s1 ∈ sourceSlots i := by
      rcases hi with rfl | rfl | rfl | rfl | rfl <;> decide
    exact exec_of_missing hmem h1
  case s2s3 =>
    subst hi
    rcases h23 with h2 | h3
    · exact exec_of_missing (n := .s2) (by decide) h2
    · exact exec_of_missing (n := .s3) (by decide) h3

/-! ### The codes a command can write (R76, R79) -/

/-- No check of any command raises IoFailure (R79): the errors of each are those its own rule lists. -/
theorem resultsOf_ne_ioFailure (i : Instr) (s : State) : resultsOf i s ≠ .error .ioFailure := by
  cases i <;>
    simp [resultsOf, cksumResults_error_iff, esplitResults_error_iff, bdeintResults_error_iff,
      wdeintResults_error_iff, bflipResults_error_iff, bint2Results_error_iff,
      bint4Results_error_iff, swaphResults_error_iff, bcatResults_error_iff,
      wmergeResults_error_iff, patchResults_error_iff, padResults_error_iff]

/-- Every command, whatever CODE was before it, ends with a code that R18 allows. -/
theorem exec_codeLegal {i : Instr} {s t : State} (h : exec i s = .next t) :
    codeLegal t.code = true := by
  rcases exec_cases i s t h with ⟨e, herror, rfl⟩ | ⟨r, -, rfl⟩
  · have hne : e ≠ .ioFailure := fun he => resultsOf_ne_ioFailure i s (he ▸ herror)
    exact codeLegal_errorCode hne
  · rw [commit_code]
    rfl

/-- A write to CMD ends with a code that R18 allows, whether or not the word is a command. -/
theorem runCommand_codeLegal {w : Word} {s t : State} (h : runCommand w s = .next t) :
    codeLegal t.code = true := by
  cases hw : decode w with
  | ok i => exact exec_codeLegal (runCommand_ok hw s ▸ h)
  | error e =>
    rw [runCommand_error hw] at h
    cases h
    rfl

/-! ### What an action that is not refused answers (R36 to R39) -/

theorem loadSlot_next {n : SrcSlot} {b : ByteBuffer} {s t : State} (h : loadSlot n b s = .next t) :
    b.length ≤ s.cfg.bufmax ∧ t = { s with mem := setSrc s.mem n (some b) } := by
  rcases Nat.lt_or_ge s.cfg.bufmax b.length with hlong | hfits
  · rw [loadSlot_of_lt hlong] at h
    cases h
  · rw [loadSlot_of_le hfits] at h
    cases h
    exact ⟨hfits, rfl⟩

theorem saveSlot_next {n : DstSlot} {s t : State} (h : saveSlot n s = .next t) :
    ∃ b, dstSlot s.mem n = some b ∧ t = reply (.buffer b) s := by
  cases hb : dstSlot s.mem n with
  | none =>
    rw [saveSlot_of_none hb] at h
    cases h
  | some b =>
    rw [saveSlot_of_some hb] at h
    cases h
    exact ⟨b, rfl, rfl⟩

theorem readReg_next {r : RegName} {s t : State} (h : readReg r s = .next t) :
    ∃ w, regValue r s = some w ∧ t = reply (.word w) s := by
  cases hw : regValue r s with
  | none =>
    rw [readReg_of_none hw] at h
    cases h
  | some w =>
    rw [readReg_of_some hw] at h
    cases h
    exact ⟨w, rfl, rfl⟩

/-! ### The codes a step can write (R79) -/

/-- Only a write to CMD writes CODE, and it writes a code that R18 allows. -/
theorem writeReg_code {r : RegName} {v : Word} {s t : State} (h : writeReg r v s = .next t) :
    t.code = s.code ∨ codeLegal t.code = true := by
  cases r with
  | cmd => exact .inr (runCommand_codeLegal h)
  | status | seed | size | fill | crc =>
    cases h
    exact .inl rfl

theorem hostAct_code {a : HostAction} {s t : State} (h : hostAct a s = .next t) :
    t.code = s.code ∨ codeLegal t.code = true := by
  cases a with
  | load n b =>
    obtain ⟨-, rfl⟩ := loadSlot_next h
    exact .inl rfl
  | save n =>
    obtain ⟨b, -, rfl⟩ := saveSlot_next h
    exact .inl rfl
  | wr r v => exact writeReg_code h
  | rd r =>
    obtain ⟨w, -, rfl⟩ := readReg_next h
    exact .inl rfl

theorem perform_code {e : Event} {s t : State} (h : perform e s = .next t) :
    t.code = s.code ∨ codeLegal t.code = true := by
  cases e with
  | action a => exact hostAct_code h
  | reset =>
    rw [(perform_reset_next_iff s t).1 h]
    exact .inr rfl

/-- A step leaves CODE as it was, or writes one of the codes R18 allows. -/
theorem step_code {s t : State} (h : step s = .next t) :
    t.code = s.code ∨ codeLegal t.code = true := by
  cases hp : s.pending with
  | nil =>
    rw [step_of_nil hp] at h
    cases h
    exact .inl rfl
  | cons e rest =>
    rw [step_of_cons hp] at h
    exact perform_code (s := { s with pending := rest }) h

/-- 2 and 7 to 15 are the values that R18 does not allow. -/
theorem codeLegal_eq_false_of_unused {c : BitVec 4} (h : c = 2#4 ∨ 7 ≤ c.toNat) :
    codeLegal c = false := by
  revert c
  decide

/-- Settles O25: an unused code is none that a step writes, so the step has left CODE alone. -/
theorem unusedCodesAreNeverWritten : Obligations.UnusedCodesAreNeverWritten := by
  intro s t h hunused
  rcases step_code h with hkept | hlegal
  · exact hkept
  · rw [codeLegal_eq_false_of_unused hunused] at hlegal
    cases hlegal

end Sys2Proof.Machine
end

section
/-!
PROOFS. The command word (30_encoding.md R42, R43) and the step that takes it (R17, R47). A word whose
field ZERO is 0 is its OPC as a number, so the opcode map and its inverse decide the whole word; the
step that a write to CMD takes is then the run of what the word decodes to.
-/

namespace Sys2Proof.Machine

/-! ### The opcode map and its inverse (R43) -/

theorem decodeOpcode_opcode (i : Instr) : decodeOpcode (opcode i) = some i := by cases i <;> rfl

/-- The map assigns each command one opcode and no other. -/
theorem eq_opcode_of_decodeOpcode {opc : Byte} {i : Instr} (h : decodeOpcode opc = some i) :
    opc = opcode i := by
  apply BitVec.eq_of_toNat_eq
  unfold decodeOpcode at h
  split at h <;> cases h <;> assumption

/-! ### The encoded word (R42) -/

theorem encode_fields (i : Instr) : zeroField (encode i) = 0#24 ∧ opcField (encode i) = opcode i := by
  cases i <;> decide

theorem encode_toNat (i : Instr) : (encode i).toNat = (opcode i).toNat := by
  rw [encode, BitVec.toNat_setWidth_of_le (by decide)]

theorem decode_eq_ok_iff_fields (w : Word) (i : Instr) :
    decode w = .ok i ↔ zeroField w = 0#24 ∧ decodeOpcode (opcField w) = some i := by
  by_cases hzero : zeroField w = 0#24
  · rw [decode, if_pos hzero]
    cases decodeOpcode (opcField w) <;> simp [hzero]
  · simp [decode, hzero]

theorem decode_encode (i : Instr) : decode (encode i) = .ok i := by
  obtain ⟨hzero, hopc⟩ := encode_fields i
  exact (decode_eq_ok_iff_fields _ i).2 ⟨hzero, hopc ▸ decodeOpcode_opcode i⟩

theorem decode_eq_ok_iff (w : Word) (i : Instr) : decode w = .ok i ↔ w = encode i := by
  refine ⟨fun h => ?_, fun h => h ▸ decode_encode i⟩
  obtain ⟨hzero, hopc⟩ := (decode_eq_ok_iff_fields w i).1 h
  apply BitVec.eq_of_toNat_eq
  calc w.toNat
    _ = (opcField w).toNat := (opcField_toNat_of_zeroField hzero).symm
    _ = (opcode i).toNat := by rw [eq_opcode_of_decodeOpcode hopc]
    _ = (encode i).toNat := (encode_toNat i).symm

/-- Settles O2: ZERO is 0 and OPC is the command's own opcode, and the two fields are the whole word. -/
theorem decodeAcceptsOnlyTheEncodedWord : Obligations.DecodeAcceptsOnlyTheEncodedWord :=
  decode_eq_ok_iff

/-- Settles O1: both fields of the encoded word pass the decoder's two checks. -/
theorem decodeOfEncodeGivesTheCommand : Obligations.DecodeOfEncodeGivesTheCommand := decode_encode

/-- Settles O3: each row's word is the encoding of its command, so it decodes to it. -/
theorem specWordsAreTheTwelveCommands : Obligations.SpecWordsAreTheTwelveCommands := by
  intro row hrow
  have hword : encode row.2.1 = row.1 ∧ mnemonic row.2.1 = row.2.2 := by
    revert row
    decide
  obtain ⟨hencode, hmnemonic⟩ := hword
  exact ⟨(decode_eq_ok_iff row.1 row.2.1).2 hencode.symm, hencode, hmnemonic⟩

/-! ### The step that runs a command (R17, R47) -/

theorem step_of_command {s : State} {w : Word} {i : Instr} {rest : List Event}
    (hp : s.pending = .action (.wr .cmd w) :: rest) (hw : decode w = .ok i) :
    step s = exec i { s with pending := rest } := by
  rw [step_of_cons hp, perform_action, hostAct_wr, writeReg_cmd, runCommand_ok hw]

/-- Settles O8: the two shapes of the list of events to come. -/
theorem stepTakesOneEvent : Obligations.StepTakesOneEvent :=
  fun _ => ⟨fun _ _ hp => step_of_cons hp, step_of_nil⟩

/-- Settles O5: a step performs the write to CMD, which runs the decoded command. -/
theorem stepRunsTheDecodedCommand : Obligations.StepRunsTheDecodedCommand :=
  fun _ _ _ _ hp hw => step_of_command hp hw

/-- A word placed whole is that word. -/
theorem tableWord_toNat (w : Word) : tableWord 32 w.toNat = w := by
  rw [tableWord, Nat.mod_eq_of_lt w.isLt, BitVec.ofNat_toNat, BitVec.setWidth_eq]

/-- Settles O6: the placed event is a write to CMD of the command's own word, and taking it off gives
back the list it was placed on. -/
theorem placedCommandRunsNext : Obligations.PlacedCommandRunsNext := by
  intro s i
  have hword : decode (tableWord 32 (encode i).toNat) = .ok i := by
    rw [tableWord_toNat, decode_encode]
  exact step_of_command (s := s.withFetchWord 32 (encode i).toNat) rfl hword

/-- Settles O7: the first event of the program is the write of the mnemonic's word to CMD (R49). -/
theorem mnemonicLineRunsItsCommand : Obligations.MnemonicLineRunsItsCommand :=
  fun _ i _ hp => step_of_command hp (decode_encode i)

end Sys2Proof.Machine
end

section
/-!
PROOFS. The register port (10_state.md R16, 20_memory.md R28) and the fields of STATUS (R18), bit by bit;
and the operand slots of R44 and the codes of R76 as the model lists them.
-/

namespace Sys2Proof.Machine

/-! ### Register numbers (R16, R28) -/

theorem regOfNumber_eq_some_iff (n : Nat) (r : RegName) : regOfNumber n = some r ↔ regNumber r = n := by
  refine ⟨fun h => ?_, fun h => h ▸ regOfNumber_regNumber r⟩
  unfold regOfNumber at h
  split at h <;> cases h <;> rfl

/-- Register numbers 6 and above do not exist (R16). -/
theorem regOfNumber_eq_none {n : Nat} (h : 6 ≤ n) : regOfNumber n = none := by
  unfold regOfNumber
  split
  case h_7 => rfl
  all_goals omega

theorem portWrite_eq_none {n : Nat} (h : 6 ≤ n) (v : Word) : portWrite n v = none := by
  rw [portWrite, regOfNumber_eq_none h]

theorem portRead_eq_none {n : Nat} (h : 6 ≤ n) : portRead n = none := by
  rw [portRead, regOfNumber_eq_none h]

/-! ### The fields of STATUS (R18) -/

theorem statusWord_fields (s : State) :
    (statusWord s).extractLsb' 0 4 = s.code ∧ (statusWord s).extractLsb' 4 4 = 0#4 ∧
    (statusWord s).getLsbD 8 = s.mem.d0.isSome ∧ (statusWord s).getLsbD 9 = s.mem.d1.isSome ∧
    (statusWord s).getLsbD 10 = s.crc.isSome ∧ (statusWord s).extractLsb' 11 21 = 0#21 := by
  unfold statusWord crcv d0v d1v
  generalize s.mem.d0.isSome = x, s.mem.d1.isSome = y, s.crc.isSome = z, s.code = c
  revert x y z c
  decide

/-- Settles O14: the numbering and its inverse, the port on either side of number 6, and STATUS field by
field. -/
theorem registersStandAtTheirNumbersAndBits : Obligations.RegistersStandAtTheirNumbersAndBits :=
  ⟨⟨rfl, rfl, rfl, rfl, rfl, rfl⟩, regOfNumber_eq_some_iff,
    fun r v => ⟨portWrite_regNumber r v, portRead_regNumber r⟩,
    fun _ v hn => ⟨portWrite_eq_none hn v, portRead_eq_none hn⟩, statusWord_fields⟩

/-! ### The codes and the operand columns (R76, R44) -/

/-- Settles O17, code by code. -/
theorem errorCodesOfTheTaxonomy : Obligations.ErrorCodesOfTheTaxonomy :=
  ⟨rfl, rfl, rfl, rfl, rfl, rfl, rfl⟩

/-- Settles O18, command by command. -/
theorem operandSlotsOfEachCommand : Obligations.OperandSlotsOfEachCommand := by
  intro i
  cases i <;> rfl

end Sys2Proof.Machine
end

section
/-!
PROOFS. What holds of every command (30_encoding.md R44 to R48, 60_exceptions.md R86, R88). What a
command's checks answer depends on its operands alone; which results a success has depends on the command
alone, BCAT's second bank apart. Completion, commit, frame and what a second issue does follow.
-/

namespace Sys2Proof.Machine

/-! ### A command always ends (R46, R76) -/

theorem exec_total (i : Instr) (s : State) : ∃ t, exec i s = .next t := by
  cases hr : resultsOf i s with
  | error e => exact ⟨_, exec_of_error hr⟩
  | ok r => exact ⟨_, exec_of_ok hr⟩

/-- IllegalCommand is the decoder's error: no check of a command raises it (R82). -/
theorem resultsOf_ne_illegalCommand (i : Instr) (s : State) :
    resultsOf i s ≠ .error .illegalCommand := by
  cases i <;>
    simp [resultsOf, cksumResults_error_iff, esplitResults_error_iff, bdeintResults_error_iff,
      wdeintResults_error_iff, bflipResults_error_iff, bint2Results_error_iff,
      bint4Results_error_iff, swaphResults_error_iff, bcatResults_error_iff,
      wmergeResults_error_iff, patchResults_error_iff, padResults_error_iff]

theorem errorCode_of_resultsOf {i : Instr} {s : State} {e : CmdError}
    (h : resultsOf i s = .error e) :
    errorCode e = 1#4 ∨ errorCode e = 3#4 ∨ errorCode e = 4#4 ∨ errorCode e = 5#4 := by
  cases e with
  | ioFailure => exact absurd h (resultsOf_ne_ioFailure i s)
  | illegalCommand => exact absurd h (resultsOf_ne_illegalCommand i s)
  | inputNotFound | allocationFailure | sizeMismatch | sizeOutOfRange => decide

/-- Settles O21: a command commits with code 0, or raises one of the four errors its checks can give. -/
theorem everyCommandEndsWithACode : Obligations.EveryCommandEndsWithACode := by
  intro i s
  cases hr : resultsOf i s with
  | error e => exact ⟨_, exec_of_error hr, .inr (errorCode_of_resultsOf hr)⟩
  | ok r => exact ⟨_, exec_of_ok hr, .inl (commit_code _ r s)⟩

/-! ### The two ends, told apart by CODE (R48, R86) -/

/-- A command that ends with OK has committed: no error has code 0. -/
theorem exec_eq_commit_of_code_ok {i : Instr} {s t : State} (h : exec i s = .next t)
    (hcode : t.code = 0#4) : ∃ r, resultsOf i s = .ok r ∧ t = commit (sourceSlots i) r s := by
  rcases exec_cases i s t h with ⟨e, -, rfl⟩ | hcommit
  · exact absurd hcode (errorCode_ne_ok e)
  · exact hcommit

/-- Which results a successful command has (the last three columns of R44). -/
theorem results_present {i : Instr} {s : State} {r : Results} (h : resultsOf i s = .ok r) :
    (r.crc.isSome = true ↔ i = .cksum) ∧ (r.d0.isSome = true ↔ i ≠ .cksum) ∧
    (r.d1.isSome = true ↔ (i = .esplit ∨ i = .bdeint ∨ i = .wdeint ∨
      (i = .bcat ∧ ∃ a b, s.mem.s0 = some a ∧ s.mem.s1 = some b ∧
        s.cfg.cap < a.length + b.length))) := by
  cases i with
  | cksum => obtain ⟨data, -, rfl⟩ := (cksumResults_ok_iff s r).1 h; simp
  | esplit => obtain ⟨buf, -, rfl⟩ := (esplitResults_ok_iff s r).1 h; simp
  | bdeint => obtain ⟨buf, -, rfl⟩ := (bdeintResults_ok_iff s r).1 h; simp
  | wdeint => obtain ⟨buf, -, -, rfl⟩ := (wdeintResults_ok_iff s r).1 h; simp
  | bflip => obtain ⟨buf, -, -, rfl⟩ := (bflipResults_ok_iff s r).1 h; simp
  | bint2 => obtain ⟨a, -, b, -, -, -, rfl⟩ := (bint2Results_ok_iff s r).1 h; simp
  | bint4 =>
    obtain ⟨a, -, b, -, c, -, d, -, -, -, rfl⟩ := (bint4Results_ok_iff s r).1 h
    simp
  | swaph => obtain ⟨buf, -, rfl⟩ := (swaphResults_ok_iff s r).1 h; simp
  | bcat =>
    obtain ⟨a, ha, b, hb, -, rfl⟩ := (bcatResults_ok_iff s r).1 h
    simp [ha, hb, bankSplit_snd_isSome_iff]
  | wmerge => obtain ⟨a, -, b, -, -, -, -, rfl⟩ := (wmergeResults_ok_iff s r).1 h; simp
  | patch => obtain ⟨base, -, patch, -, -, -, rfl⟩ := (patchResults_ok_iff s r).1 h; simp
  | pad => obtain ⟨buf, -, -, -, rfl⟩ := (padResults_ok_iff s r).1 h; simp

/-- Settles O19: the next state is a commit, whose frame is the rules of `commit` and whose results are
those the command has. -/
theorem successfulCommandCommits : Obligations.SuccessfulCommandCommits := by
  intro i s t h hcode
  obtain ⟨r, hr, rfl⟩ := exec_eq_commit_of_code_ok h hcode
  refine ⟨fun n hn => ?emptied, fun n hn => ?kept, rfl, rfl, rfl, rfl, rfl, rfl, results_present hr⟩
  case emptied => rw [srcSlot_commit, if_pos hn]
  case kept => rw [srcSlot_commit, if_neg hn]

/-! ### A command sees its operands alone (R46) -/

/-- Two states agree on what command `i` reads: its source slots, the parameters of the machine, and the
registers among its operands (R44). -/
structure AgreeOnOperands (i : Instr) (s s' : State) : Prop where
  slots : ∀ n, n ∈ sourceSlots i → srcSlot s.mem n = srcSlot s'.mem n
  cfg : s.cfg = s'.cfg
  seed : i = .cksum → s.seed = s'.seed
  size : i = .patch ∨ i = .pad → s.size = s'.size
  fill : i = .pad → s.fill = s'.fill

namespace AgreeOnOperands

theorem operand_eq {i : Instr} {s s' : State} (h : AgreeOnOperands i s s') {n : SrcSlot}
    (hn : n ∈ sourceSlots i) : operand s n = operand s' n := by
  rw [operand, operand, h.slots n hn]

theorem allocate_eq {i : Instr} {s s' : State} (h : AgreeOnOperands i s s') :
    allocate s = allocate s' := by
  funext n
  rw [allocate, allocate, h.cfg]

/-- What a command's checks answer, error or results, is a function of its operands. -/
theorem resultsOf_eq {i : Instr} {s s' : State} (h : AgreeOnOperands i s s') :
    resultsOf i s = resultsOf i s' := by
  have h0 : operand s .s0 = operand s' .s0 := h.operand_eq (s0_mem_sourceSlots i)
  have halloc := h.allocate_eq
  cases i with
  | cksum =>
    have hseed : seedOperand s = seedOperand s' := h.seed rfl
    simp only [resultsOf, cksumResults, h0, hseed]
  | esplit => simp only [resultsOf, esplitResults, h0]
  | bdeint => simp only [resultsOf, bdeintResults, h0]
  | wdeint => simp only [resultsOf, wdeintResults, h0]
  | bflip => simp only [resultsOf, bflipResults, h0]
  | bint2 =>
    have h1 : operand s .s1 = operand s' .s1 := h.operand_eq (by decide)
    simp only [resultsOf, bint2Results, h0, h1, halloc]
  | bint4 =>
    have h1 : operand s .s1 = operand s' .s1 := h.operand_eq (by decide)
    have h2 : operand s .s2 = operand s' .s2 := h.operand_eq (by decide)
    have h3 : operand s .s3 = operand s' .s3 := h.operand_eq (by decide)
    simp only [resultsOf, bint4Results, h0, h1, h2, h3, halloc]
  | swaph => simp only [resultsOf, swaphResults, h0]
  | bcat =>
    have h1 : operand s .s1 = operand s' .s1 := h.operand_eq (by decide)
    simp only [resultsOf, bcatResults, h0, h1, h.cfg]
  | wmerge =>
    have h1 : operand s .s1 = operand s' .s1 := h.operand_eq (by decide)
    simp only [resultsOf, wmergeResults, h0, h1, halloc]
  | patch =>
    have h1 : operand s .s1 = operand s' .s1 := h.operand_eq (by decide)
    have hsize : sizeOperand s = sizeOperand s' := congrArg BitVec.toNat (h.size (.inl rfl))
    simp only [resultsOf, patchResults, h0, h1, hsize]
  | pad =>
    have hsize : sizeOperand s = sizeOperand s' := congrArg BitVec.toNat (h.size (.inr rfl))
    have hfill : fillOperand s = fillOperand s' := h.fill rfl
    simp only [resultsOf, padResults, h0, hsize, hfill, halloc]

end AgreeOnOperands

/-- Settles O22: both states' checks give the same answer, and CODE and the results are read off it. -/
theorem commandDependsOnItsOperandsOnly : Obligations.CommandDependsOnItsOperandsOnly := by
  intro i s s' hslots hcfg hseed hsize hfill
  have heq := AgreeOnOperands.resultsOf_eq ⟨hslots, hcfg, hseed, hsize, hfill⟩
  cases hr : resultsOf i s with
  | error e =>
    exact ⟨_, _, exec_of_error hr, exec_of_error (heq ▸ hr), rfl,
      fun hcode => absurd hcode (errorCode_ne_ok e)⟩
  | ok r => exact ⟨_, _, exec_of_ok hr, exec_of_ok (heq ▸ hr), rfl, fun _ => ⟨rfl, rfl, rfl⟩⟩

/-! ### The same command issued again (R88, R96) -/

/-- An error takes no operand away (R86). -/
theorem resultsOf_raise (i : Instr) (e : CmdError) (s : State) :
    resultsOf i (raise e s) = resultsOf i s :=
  AgreeOnOperands.resultsOf_eq ⟨fun _ _ => rfl, rfl, fun _ => rfl, fun _ => rfl, fun _ => rfl⟩

/-- Settles O23: the operands are still in place, so the same check fails and writes the same CODE. -/
theorem reissueAfterErrorFailsAlike : Obligations.ReissueAfterErrorFailsAlike := by
  intro i s t h hcode
  rcases exec_cases i s t h with ⟨e, herror, rfl⟩ | ⟨r, -, rfl⟩
  · exact exec_of_error ((resultsOf_raise i e s).trans herror)
  · exact absurd (commit_code _ r s) hcode

/-- Settles O24: every command reads S0, and the commit has emptied it. -/
theorem reissueAfterSuccessFindsNoOperand : Obligations.ReissueAfterSuccessFindsNoOperand := by
  intro i s t h hcode
  obtain ⟨r, -, rfl⟩ := exec_eq_commit_of_code_ok h hcode
  have hs0 := s0_mem_sourceSlots i
  exact exec_of_missing hs0 (by rw [srcSlot_commit, if_pos hs0])

/-! ### Bytes a command does not touch (R27, R48, R86) -/

theorem exec_srcSlot_of_not_mem {i : Instr} {s t : State} (h : exec i s = .next t) {n : SrcSlot}
    (hn : n ∉ sourceSlots i) : srcSlot t.mem n = srcSlot s.mem n := by
  rcases exec_cases i s t h with ⟨e, -, rfl⟩ | ⟨r, -, rfl⟩
  · rfl
  · rw [srcSlot_commit, if_neg hn]

/-- The bytes of a space are those of the slot it names (R26). -/
theorem readByte_src_congr {m m' : Memory} {n : SrcSlot} (h : srcSlot m n = srcSlot m' n)
    (addr : Nat) : readByte m (.src n) addr = readByte m' (.src n) addr := by
  simp only [readByte, spaceSlot, h]

/-- Settles O26: a slot that is not read is kept whole, and an error keeps the whole memory. -/
theorem commandLeavesOtherBytesAlone : Obligations.CommandLeavesOtherBytesAlone := by
  refine fun i s t h => ⟨fun n addr hn => ?notRead, fun hcode sp addr => ?failed⟩
  case notRead => exact readByte_src_congr (exec_srcSlot_of_not_mem h hn) addr
  case failed =>
    obtain ⟨e, rfl⟩ := exec_eq_raise_of_code_ne_ok h hcode
    rfl

end Sys2Proof.Machine
end

section
/-!
PROOFS. The algebra of the checksum (40_checksum.md R54). A round is linear and loses nothing: bit 0 of
what it gives is the bit that it shifted out. Eight rounds of an accumulator whose top byte is 0 are a
shift, so the table need hold the top byte's share alone, which is R54's item 5; items 3 and 4 follow.
-/

namespace Sys2Proof.Machine

/-- Settles O30: the bytes of `x ++ y` are taken in order. -/
theorem checksumChains : Obligations.ChecksumChains :=
  fun seed x y => (crcUpdate_append seed x y).symm

/-! ### A round is linear (R51) -/

theorem tableRound_eq_xor (a : Word) :
    tableRound a = a <<< 1 ^^^ (if a.getLsbD 31 then polynomial else 0#32) := by
  rw [tableRound]
  split <;> simp

theorem tableRound_xor (a b : Word) : tableRound (a ^^^ b) = tableRound a ^^^ tableRound b := by
  have hmask (x y : Bool) : (if x ^^ y then polynomial else 0#32) =
      (if x then polynomial else 0#32) ^^^ (if y then polynomial else 0#32) := by
    cases x <;> cases y <;> simp
  rw [tableRound_eq_xor, tableRound_eq_xor, tableRound_eq_xor, BitVec.getLsbD_xor,
    BitVec.shiftLeft_xor_distrib, hmask]
  ac_rfl

theorem tableRounds_xor (n : Nat) (a b : Word) :
    tableRounds n (a ^^^ b) = tableRounds n a ^^^ tableRounds n b := by
  induction n generalizing a b with
  | zero => rfl
  | succ n ih => rw [tableRounds, tableRounds, tableRounds, tableRound_xor, ih]

/-- While no set bit reaches bit 31, rounds are shifts. -/
theorem tableRounds_of_lt {n : Nat} (hn : n ≤ 32) {a : Word} (ha : a.toNat < 2 ^ (32 - n)) :
    tableRounds n a = a <<< n := by
  induction n generalizing a with
  | zero => rw [tableRounds, BitVec.shiftLeft_zero]
  | succ n ih =>
    have hpow : 2 ^ (32 - n) = 2 * 2 ^ (32 - (n + 1)) := by
      rw [← Nat.pow_succ']
      congr 1
      omega
    have hword : 2 ^ (32 - n) ≤ 2 ^ 32 := Nat.pow_le_pow_right (by decide) (Nat.sub_le 32 n)
    have hclear : ¬ a.getLsbD 31 = true := fun htop => by
      have := (getLsbD_31_iff a).1 htop
      omega
    have hround : tableRound a = a <<< 1 := by rw [tableRound, if_neg hclear]
    have hnext : (a <<< 1).toNat < 2 ^ (32 - n) := by
      rw [toNat_shiftLeft_eq_mod, Nat.mod_eq_of_lt (by omega)]
      omega
    rw [tableRounds, hround, ih (by omega) hnext, ← BitVec.shiftLeft_add, Nat.add_comm]

/-! ### The update bit by bit (R52, R54 item 5) -/

/-- A word is its low three bytes and its top byte. -/
theorem eq_low_xor_top (a : Word) :
    a = (a <<< 8) >>> 8 ^^^ ((a >>> 24).setWidth 8).setWidth 32 <<< 24 := by
  apply BitVec.eq_of_getLsbD_eq
  intro k hk
  rcases Nat.lt_or_ge k 24 with hlow | hhigh
  · simp [hk, hlow, show 8 + k < 32 by omega]
  · simp [hk, hhigh, show ¬ 8 + k < 32 by omega, show k - 24 < 8 by omega]

/-- Settles O31: the low three bytes are shifted through eight rounds, and the table entry is eight rounds
of the rest, the accumulator's top byte with the data byte. -/
theorem checksumUpdateIsBitwise : Obligations.ChecksumUpdateIsBitwise := by
  intro a b
  have hlow : ((a <<< 8) >>> 8).toNat < 2 ^ (32 - 8) := by
    rw [BitVec.toNat_ushiftRight, Nat.shiftRight_eq_div_pow]
    omega
  have hshift : (a <<< 8) >>> 8 <<< 8 = a <<< 8 := by
    apply BitVec.eq_of_toNat_eq
    simp only [toNat_shiftLeft_eq_mod, BitVec.toNat_ushiftRight, Nat.shiftRight_eq_div_pow]
    omega
  have hsplit : a ^^^ (b.setWidth 32 <<< 24) =
      (a <<< 8) >>> 8 ^^^ (((a >>> 24).setWidth 8 ^^^ b).setWidth 32 <<< 24) := by
    conv_lhs => rw [eq_low_xor_top a]
    rw [BitVec.setWidth_xor, BitVec.shiftLeft_xor_distrib, BitVec.xor_assoc]
  rw [hsplit, tableRounds_xor, tableRounds_of_lt (by decide) hlow, hshift, crcStep, tableEntry]

/-! ### A changed byte changes the checksum (R54 item 3) -/

theorem tableRound_injective : Function.Injective tableRound := by
  intro a b h
  have hbit (x : Word) : (tableRound x).getLsbD 0 = x.getLsbD 31 := by
    rw [tableRound]
    cases x.getLsbD 31 <;> simp [polynomial]
  have htop : a.getLsbD 31 = b.getLsbD 31 := by rw [← hbit, ← hbit, h]
  have hshift : a <<< 1 = b <<< 1 := by
    rw [tableRound, tableRound, htop] at h
    split at h
    · exact (BitVec.xor_left_inj _).1 h
    · exact h
  apply BitVec.eq_of_getLsbD_eq
  intro k hk
  rcases Nat.lt_or_eq_of_le (Nat.le_of_lt_succ hk) with hlow | rfl
  · have hnext := congrArg (BitVec.getLsbD · (k + 1)) hshift
    simpa [hk, show k + 1 < 32 by omega] using hnext
  · exact htop

theorem tableRounds_injective (n : Nat) : Function.Injective (tableRounds n) := by
  have hiter : tableRounds n = tableRound^[n] := funext (tableRounds_eq_iterate n)
  exact hiter ▸ tableRound_injective.iterate n

theorem crcStep_injective_left (x : Byte) : Function.Injective (crcStep · x) := by
  intro a b h
  have hrounds : crcStep a x = crcStep b x := h
  rw [checksumUpdateIsBitwise, checksumUpdateIsBitwise] at hrounds
  exact (BitVec.xor_left_inj _).1 (tableRounds_injective 8 hrounds)

theorem crcStep_injective_right (a : Word) : Function.Injective (crcStep a) := by
  intro x y h
  rw [checksumUpdateIsBitwise, checksumUpdateIsBitwise] at h
  have hbytes : x.setWidth 32 <<< 24 = y.setWidth 32 <<< 24 :=
    (BitVec.xor_right_inj _).1 (tableRounds_injective 8 h)
  have hvalues := congrArg BitVec.toNat hbytes
  rw [toNat_topByte, toNat_topByte] at hvalues
  exact BitVec.eq_of_toNat_eq (by omega)

theorem crcUpdate_injective (data : ByteBuffer) : Function.Injective (crcUpdate · data) := by
  induction data with
  | nil => exact fun _ _ h => h
  | cons x rest ih => exact fun _ _ h => crcStep_injective_left x (ih h)

/-- The checksum of a buffer as that of the bytes before index `k`, byte `k`, and the bytes after it. -/
theorem crcUpdate_split (seed : Word) {x : ByteBuffer} {k : Nat} {b : Byte} (hb : x[k]? = some b) :
    crcUpdate seed x = crcUpdate (crcStep (crcUpdate seed (x.take k)) b) (x.drop (k + 1)) := by
  obtain ⟨hk, rfl⟩ := List.getElem?_eq_some_iff.1 hb
  conv_lhs => rw [← List.take_append_drop k x, List.drop_eq_getElem_cons hk, crcUpdate_append]
  rfl

/-- Settles O32: the buffers agree before and after the index, an update keeps different accumulators
different, and the one byte makes them differ. -/
theorem checksumSeesEverySingleByteChange : Obligations.ChecksumSeesEverySingleByteChange := by
  intro seed x y k hlen hne hsame hcrc
  have hbefore : x.take k = y.take k := by
    refine List.ext_getElem? fun j => ?_
    rw [List.getElem?_take, List.getElem?_take]
    split
    · exact hsame j (by omega)
    · rfl
  have hafter : x.drop (k + 1) = y.drop (k + 1) := by
    refine List.ext_getElem? fun j => ?_
    rw [List.getElem?_drop, List.getElem?_drop]
    exact hsame _ (by omega)
  rcases Nat.lt_or_ge k x.length with hk | hk
  · have hx := List.getElem?_eq_getElem hk
    have hy := List.getElem?_eq_getElem (hlen ▸ hk)
    rw [crcUpdate_split seed hx, crcUpdate_split seed hy, hbefore, hafter] at hcrc
    have hbyte := crcStep_injective_right _ (crcUpdate_injective _ hcrc)
    exact hne (by rw [hx, hy, hbyte])
  · exact hne (by rw [List.getElem?_eq_none hk, List.getElem?_eq_none (hlen ▸ hk)])

end Sys2Proof.Machine
end

section
/-!
PROOFS. The algebra of the interleave engine (41_interleave.md R64, R65). Splitting and merging take a
buffer group by group from its front, and the stride view does too once a slice, a gather and a weave
are known past a common front; so each equality is an induction over the groups. The round trips are
proved for every length, with the bytes of the last incomplete group dropped.
-/

namespace Sys2Proof.Machine

/-! ### Past a common front (R9, R64) -/

theorem slice_append_right (front rest : ByteBuffer) (i j : Nat) :
    slice (front ++ rest) (front.length + i) (front.length + j) = slice rest i j := by
  rw [slice, slice, List.take_length_add_append, List.drop_length_add_append]

theorem slice_append_left {front : ByteBuffer} {n : Nat} (h : front.length = n) (rest : ByteBuffer) :
    slice (front ++ rest) 0 (0 + n) = front := by
  rw [Nat.zero_add, slice_zero_eq_take, List.take_left' h]

theorem gather_append (front rest : ByteBuffer) (n step count off : Nat) :
    gather (front ++ rest) n step count (front.length + off) = gather rest n step count off := by
  induction count generalizing off with
  | zero => rfl
  | succ count ih =>
    rw [gather, gather, Nat.add_assoc, Nat.add_assoc, slice_append_right, ih]

theorem weave_append {p q : ByteBuffer} (hlen : q.length = p.length) (a b : ByteBuffer)
    (s count off : Nat) :
    weave (p ++ a) (q ++ b) s count (p.length + off) = weave a b s count off := by
  induction count generalizing off with
  | zero => rfl
  | succ count ih =>
    have hq : slice (q ++ b) (p.length + off) (p.length + (off + s)) = slice b off (off + s) :=
      hlen ▸ slice_append_right q b off (off + s)
    rw [weave, weave, Nat.add_assoc, slice_append_right, hq, ih]

/-! ### The stride view, unit by unit (R64) -/

theorem deint_of_lt {buf : ByteBuffer} {s : Nat} (h : buf.length < 2 * s) : deint buf s = ([], []) := by
  rw [deint, Nat.div_eq_of_lt h]
  rfl

theorem deint_append {p q : ByteBuffer} {s : Nat} (hs : 0 < s) (hp : p.length = s)
    (hq : q.length = s) (rest : ByteBuffer) :
    deint (p ++ q ++ rest) s = (p ++ (deint rest s).1, q ++ (deint rest s).2) := by
  have hfront : (p ++ q).length = 2 * s := by rw [List.length_append, hp, hq, Nat.two_mul]
  have hcount : (p ++ q ++ rest).length / (2 * s) = rest.length / (2 * s) + 1 := by
    rw [List.length_append, hfront, Nat.add_div_left _ (by omega)]
  have hgather (count off : Nat) : gather (p ++ q ++ rest) s (2 * s) count (off + 2 * s) =
      gather rest s (2 * s) count off := by
    rw [Nat.add_comm, ← hfront, gather_append]
  have hfirst : slice (p ++ q ++ rest) 0 (0 + s) = p := by
    rw [List.append_assoc, slice_append_left hp]
  have hsecond : slice (p ++ q ++ rest) s (s + s) = q := by
    have := slice_append_right p (q ++ rest) 0 (0 + s)
    rw [hp, slice_append_left hq] at this
    simpa using this
  rw [deint, hcount, gather, gather, hgather, hgather, hfirst, hsecond, deint]

theorem inter_nil (b : ByteBuffer) (s : Nat) : inter [] b s = [] := by
  rw [inter, List.length_nil, Nat.zero_div, weave]

theorem inter_append {p q : ByteBuffer} {s : Nat} (hs : 0 < s) (hp : p.length = s)
    (hq : q.length = s) (a b : ByteBuffer) :
    inter (p ++ a) (q ++ b) s = p ++ q ++ inter a b s := by
  have hcount : (p ++ a).length / s = a.length / s + 1 := by
    rw [List.length_append, hp, Nat.add_div_left _ hs]
  have hweave : weave (p ++ a) (q ++ b) s (a.length / s) (0 + s) = inter a b s := by
    rw [Nat.add_comm, ← hp, weave_append (hq.trans hp.symm), hp, inter]
  rw [inter, hcount, weave, slice_append_left hp, slice_append_left hq, hweave]

/-! ### The commands' functions as settings of the stride view (R64) -/

theorem byteDeinterleave_eq_deint : ∀ buf : ByteBuffer, byteDeinterleave buf = deint buf 1
  | [] | [_] => (deint_of_lt (by simp)).symm
  | x :: y :: rest => by
    have h := deint_append (p := [x]) (q := [y]) Nat.one_pos rfl rfl rest
    rw [byteDeinterleave, byteDeinterleave_eq_deint rest]
    exact h.symm

/-- A length that is no multiple of 4 loses its last group in both. -/
theorem wordDeinterleave_eq_deint : ∀ buf : ByteBuffer, wordDeinterleave buf = deint buf 2
  | [] | [_] | [_, _] | [_, _, _] => (deint_of_lt (by simp)).symm
  | w :: x :: y :: z :: rest => by
    have h := deint_append (p := [w, x]) (q := [y, z]) Nat.two_pos rfl rfl rest
    rw [wordDeinterleave, wordDeinterleave_eq_deint rest]
    exact h.symm

theorem byteInterleave2_eq_inter : ∀ {a b : ByteBuffer}, a.length = b.length →
    byteInterleave2 a b = inter a b 1
  | [], [], _ => (inter_nil [] 1).symm
  | x :: as, y :: bs, hab => by
    have h := inter_append (p := [x]) (q := [y]) Nat.one_pos rfl rfl as bs
    rw [byteInterleave2, byteInterleave2_eq_inter (Nat.succ.inj hab)]
    exact h.symm

theorem wordMerge_eq_inter : ∀ {a b : ByteBuffer}, a.length = b.length → a.length % 2 = 0 →
    wordMerge a b = inter a b 2
  | [], [], _, _ => (inter_nil [] 2).symm
  | [_], _, _, heven => by simp at heven
  | x :: x' :: as, y :: y' :: bs, hab, heven => by
    have h := inter_append (p := [x, x']) (q := [y, y']) Nat.two_pos rfl rfl as bs
    have heven' : as.length % 2 = 0 := by simp only [List.length_cons] at heven; omega
    rw [wordMerge, wordMerge_eq_inter (Nat.succ.inj (Nat.succ.inj hab)) heven']
    exact h.symm

/-- Settles O40: each of the four functions takes the same groups as the stride view does. -/
theorem strideViewAgreesWithTheCommands : Obligations.StrideViewAgreesWithTheCommands :=
  ⟨byteDeinterleave_eq_deint, fun buf _ => wordDeinterleave_eq_deint buf,
    fun _ _ => byteInterleave2_eq_inter, fun _ _ => wordMerge_eq_inter⟩

/-! ### The round trips (R65) -/

/-- One more pair in front is two more bytes in whole pairs. -/
theorem wholePairs_cons_cons (x y : Byte) (rest : ByteBuffer) :
    2 * ((x :: y :: rest).length / 2) = 2 * (rest.length / 2) + 1 + 1 := by
  simp only [List.length_cons]
  omega

theorem byteInterleave2_byteDeinterleave : ∀ buf : ByteBuffer,
    byteInterleave2 (byteDeinterleave buf).1 (byteDeinterleave buf).2 =
      buf.take (2 * (buf.length / 2))
  | [] | [_] => by simp [byteDeinterleave, byteInterleave2]
  | x :: y :: rest => by
    simp only [byteDeinterleave, byteInterleave2, byteInterleave2_byteDeinterleave rest,
      wholePairs_cons_cons, List.take_succ_cons]

theorem wordMerge_wordDeinterleave : ∀ buf : ByteBuffer,
    wordMerge (wordDeinterleave buf).1 (wordDeinterleave buf).2 = buf.take (4 * (buf.length / 4))
  | [] | [_] | [_, _] | [_, _, _] => by simp [wordDeinterleave, wordMerge]
  | w :: x :: y :: z :: rest => by
    have hlen : 4 * ((w :: x :: y :: z :: rest).length / 4) =
        4 * (rest.length / 4) + 1 + 1 + 1 + 1 := by
      simp only [List.length_cons]
      omega
    simp only [wordDeinterleave, wordMerge, wordMerge_wordDeinterleave rest, hlen,
      List.take_succ_cons]

theorem byteFlip_byteFlip : ∀ buf : ByteBuffer,
    byteFlip (byteFlip buf) = buf.take (2 * (buf.length / 2))
  | [] | [_] => by simp [byteFlip]
  | x :: y :: rest => by
    simp only [byteFlip, byteFlip_byteFlip rest, wholePairs_cons_cons, List.take_succ_cons]

theorem byteDeinterleave_byteFlip : ∀ buf : ByteBuffer,
    byteDeinterleave (byteFlip buf) = ((byteDeinterleave buf).2, (byteDeinterleave buf).1)
  | [] | [_] => by simp [byteFlip, byteDeinterleave]
  | x :: y :: rest => by
    simp only [byteFlip, byteDeinterleave, byteDeinterleave_byteFlip rest]

/-- Two halves of one length, joined, split into just these. -/
theorem equalSplit_append {p q : ByteBuffer} (h : p.length = q.length) :
    equalSplit (p ++ q) = (p, q) := by
  have hhalf : half (p ++ q) = p.length := by
    rw [half, List.length_append, ← h]
    omega
  have htotal : 2 * p.length = (p ++ q).length := by
    rw [List.length_append, ← h, Nat.two_mul]
  rw [equalSplit, hhalf, htotal, slice_zero_eq_take, slice_length_eq_drop, List.take_left,
    List.drop_left]

/-- The two halves joined are the buffer less an odd last byte (R57). -/
theorem equalSplit_fst_append_snd (buf : ByteBuffer) :
    (equalSplit buf).1 ++ (equalSplit buf).2 = buf.take (2 * half buf) := by
  have hmin : min (half buf) (2 * half buf) = half buf := by omega
  rw [equalSplit, slice_zero_eq_take, slice]
  conv_rhs => rw [← List.take_append_drop (half buf) (buf.take (2 * half buf)), List.take_take, hmin]

theorem swapHalves_swapHalves (buf : ByteBuffer) :
    swapHalves (swapHalves buf) = buf.take (2 * half buf) := by
  have hlen : (equalSplit buf).2.length = (equalSplit buf).1.length := by
    rw [equalSplit_fst_length, equalSplit_snd_length]
  rw [swapHalves_eq_append buf, swapHalves_eq_append, equalSplit_append hlen,
    equalSplit_fst_append_snd]

/-- No byte is dropped from a buffer of whole groups. -/
theorem take_groups_of_mod_eq_zero {buf : ByteBuffer} {n : Nat} (h : buf.length % n = 0) :
    buf.take (n * (buf.length / n)) = buf := by
  rw [Nat.mul_div_cancel' (Nat.dvd_of_mod_eq_zero h), List.take_length]

/-- Settles O41: each round trip, whose dropped bytes the length condition rules out; SWAPH's twice on an
odd length drops the one byte. -/
theorem interleavePropertiesHold : Obligations.InterleavePropertiesHold := by
  refine ⟨byteInterleave2_byteDeinterleave, fun B heven => ?flip, fun B heven => ?swapEven,
    fun B hodd => ?swapOdd, fun B hlen => ?words, swapHalves_eq_append,
    fun B _ => byteDeinterleave_byteFlip B⟩
  case flip => rw [byteFlip_byteFlip, take_groups_of_mod_eq_zero heven]
  case swapEven => rw [swapHalves_swapHalves, half, take_groups_of_mod_eq_zero heven]
  case swapOdd =>
    have hdrop : 2 * half B = B.length - 1 := by
      rw [half]
      omega
    rw [swapHalves_swapHalves, hdrop]
  case words => rw [wordMerge_wordDeinterleave, take_groups_of_mod_eq_zero hlen]

/-! ### The round trips through the machine (R65 items 1 and 4) -/

/-- Settles O42: the results of the split are operands that the merge accepts, of equal lengths and no
longer together than the buffer, and the merge is the round trip of the two functions. -/
theorem mergeUndoesDeinterleaveOnTheMachine : Obligations.MergeUndoesDeinterleaveOnTheMachine := by
  refine ⟨fun s t buf hbuf hmax h => ?bytes, fun s t buf hbuf hmax h hcode => ?words⟩
  case bytes =>
    obtain ⟨hfst, hsnd⟩ := byteDeinterleave_length buf
    rw [exec_bdeint_of_some hbuf] at h
    cases h
    have hfits : 2 * (byteDeinterleave buf).1.length ≤ s.cfg.bufmax := by omega
    exact ⟨_, exec_bint2_of_some rfl rfl (hfst.trans hsnd.symm) hfits, rfl,
      congrArg some (byteInterleave2_byteDeinterleave buf)⟩
  case words =>
    obtain ⟨r, hr, rfl⟩ := exec_eq_commit_of_code_ok h hcode
    obtain ⟨buf', hbuf', hlen, rfl⟩ := (wdeintResults_ok_iff s r).1 hr
    obtain rfl : buf = buf' := Option.some.inj (hbuf.symm.trans hbuf')
    obtain ⟨hfst, hsnd⟩ := wordDeinterleave_length buf
    have heven : (wordDeinterleave buf).1.length % 2 = 0 := by omega
    have hfits : 2 * (wordDeinterleave buf).1.length ≤ s.cfg.bufmax := by omega
    have hwhole : wordMerge (wordDeinterleave buf).1 (wordDeinterleave buf).2 = buf := by
      rw [wordMerge_wordDeinterleave, take_groups_of_mod_eq_zero hlen]
    exact ⟨_, exec_wmerge_of_some rfl rfl (hfst.trans hsnd.symm) heven hfits, rfl,
      congrArg some hwhole⟩

end Sys2Proof.Machine
end

section
/-!
PROOFS. The algebra of BCAT's banks (42_bank_concat.md R68, R69, 20_memory.md R41), of the overlay
(44_patch.md R72, R73) and of padding (45_pad.md R75). The two cases of the bank split are one cut of
the concatenation, so every property of the banks is one of a list cut in two.
-/

namespace Sys2Proof.Machine

/-! ### The banks are one cut (R68) -/

theorem bankCut_eq (cap : Nat) (a b : ByteBuffer) : bankCut cap a b =
    if a.length + b.length ≤ cap then (a ++ b, none)
    else ((a ++ b).take cap, some ((a ++ b).drop cap)) := by
  simp only [bankCut, slice_zero_eq_take, slice_length_eq_drop]
  rw [List.length_append]

/-- Beyond one bank, both cases of R66 cut the concatenation at CAP. -/
theorem bankSplit_of_cap_lt_total {cap : Nat} {a b : ByteBuffer} (h : cap < a.length + b.length) :
    bankSplit cap a b = ((a ++ b).take cap, some ((a ++ b).drop cap)) := by
  rcases Nat.lt_or_ge cap a.length with hfst | hfst
  · rw [bankSplit_of_cap_lt_fst hfst, List.take_append_of_le_length hfst.le,
      List.drop_append_of_le_length hfst.le]
  · have hcut : b.length - (a.length + b.length - cap) = cap - a.length := by omega
    rw [bankSplit_of_overflow hfst h, hcut, List.take_append, List.drop_append,
      List.take_of_length_le hfst, List.drop_of_length_le hfst, List.nil_append]

theorem bankSplit_eq (cap : Nat) (a b : ByteBuffer) : bankSplit cap a b =
    if a.length + b.length ≤ cap then (a ++ b, none)
    else ((a ++ b).take cap, some ((a ++ b).drop cap)) := by
  split
  case isTrue h => exact bankSplit_of_total_le h
  case isFalse h => exact bankSplit_of_cap_lt_total (Nat.not_le.1 h)

/-- Settles O44: both functions are the same cut. -/
theorem bankSplitIsOneCut : Obligations.BankSplitIsOneCut :=
  fun cap A B _ => ⟨(bankSplit_eq cap A B).trans (bankCut_eq cap A B).symm, bankSplit_eq cap A B⟩

/-! ### What the banks hold (R69) -/

theorem bankSplit_append (cap : Nat) (a b : ByteBuffer) :
    (bankSplit cap a b).1 ++ (bankSplit cap a b).2.getD [] = a ++ b := by
  rw [bankSplit_eq]
  split
  · exact List.append_nil _
  · exact List.take_append_drop cap (a ++ b)

theorem bankSplit_fst_length (cap : Nat) (a b : ByteBuffer) :
    (bankSplit cap a b).1.length = min cap (a.length + b.length) := by
  rw [bankSplit_eq]
  split
  case isTrue h => rw [List.length_append, Nat.min_eq_right h]
  case isFalse => rw [List.length_take, List.length_append]

theorem bankSplit_snd_length (cap : Nat) (a b : ByteBuffer) :
    ((bankSplit cap a b).2.getD []).length = a.length + b.length - cap := by
  rw [bankSplit_eq]
  split
  case isTrue h => exact (Nat.sub_eq_zero_of_le h).symm
  case isFalse => rw [Option.getD_some, List.length_drop, List.length_append]

/-- Settles O45: the lengths of the two banks are those of the cut, and bank1 is there exactly where the
total exceeds CAP. -/
theorem banksHoldEveryByteWithinCapacity : Obligations.BanksHoldEveryByteWithinCapacity := by
  intro s t A B hA hB h hcode
  obtain ⟨r, hr, rfl⟩ := exec_eq_commit_of_code_ok h hcode
  obtain ⟨a, ha, b, hb, htotal, rfl⟩ := (bcatResults_ok_iff s r).1 hr
  obtain rfl : A = a := Option.some.inj (hA.symm.trans ha)
  obtain rfl : B = b := Option.some.inj (hB.symm.trans hb)
  have hfst := bankSplit_fst_length s.cfg.cap A B
  have hsnd := bankSplit_snd_length s.cfg.cap A B
  have hsome := bankSplit_snd_isSome_iff s.cfg.cap A B
  simp only [commit_d0, commit_d1]
  refine ⟨(bankSplit s.cfg.cap A B).1, rfl, by omega, by omega, by omega,
    bankSplit_append s.cfg.cap A B, hsome, fun hbank1 => ?full, ?count⟩
  case full =>
    have hover := hsome.1 hbank1
    exact ⟨by omega, hsnd, by omega⟩
  case count =>
    simp only [bankCount, d0v, d1v, commit_d0, commit_d1, ← hsome, Option.isSome_some]
    cases (bankSplit s.cfg.cap A B).2.isSome <;> rfl

/-- Settles O46: D0 gives the first pair, and D1 the second if it holds a buffer. -/
theorem bankOutputsAreNamedInOrder : Obligations.BankOutputsAreNamedInOrder := by
  refine fun s bank0 h0 => ⟨fun h1 => ?one, fun bank1 h1 => ?two⟩
  case one => rw [bankOutputs, h0, h1]; rfl
  case two => rw [bankOutputs, h0, h1]; rfl

/-! ### The overlay (R72, R73) -/

theorem overlay_take {base patch : ByteBuffer} {size : Nat} (hpatch : size ≤ patch.length) :
    (overlay base patch size).take size = patch.take size := by
  rw [overlay_eq_take_append_drop, List.take_left' (List.length_take_of_le hpatch)]

theorem overlay_drop {base patch : ByteBuffer} {size : Nat} (hpatch : size ≤ patch.length) :
    (overlay base patch size).drop size = base.drop size := by
  rw [overlay_eq_take_append_drop, List.drop_left' (List.length_take_of_le hpatch)]

/-- Settles O49: the overlay is the patch's first bytes and then the base's last ones. -/
theorem overlayPropertiesHold : Obligations.OverlayPropertiesHold := by
  refine fun base patch size hpatch hbase => ⟨fun hp hb => ?whole, fun hzero => ?nothing,
    overlay_length hpatch hbase, overlay_take hpatch, overlay_drop hpatch, ?twice⟩
  case whole =>
    rw [overlay_eq_take_append_drop, List.take_of_length_le hp.ge, List.drop_of_length_le hb.ge,
      List.append_nil]
  case nothing =>
    rw [overlay_eq_take_append_drop, hzero, List.take_zero, List.drop_zero, List.nil_append]
  case twice =>
    rw [overlay_eq_take_append_drop (overlay base patch size), overlay_drop hpatch,
      overlay_eq_take_append_drop]

theorem memRead_of_some {m : Memory} {sp : Space} {b : ByteBuffer} {addr n : Nat}
    (hb : spaceSlot m sp = some b) (h : addr + n ≤ b.length) :
    memRead m sp addr n = some (slice b addr (addr + n)) := by
  simp only [memRead, hb, if_pos h]

/-- A write at index 0 replaces the front of the buffer (R9). -/
theorem memWrite_zero (b v : ByteBuffer) : memWrite b 0 v = v ++ b.drop v.length := by
  rw [memWrite, List.take_zero, List.nil_append, Nat.zero_add]

/-- Settles O50: the read gives the patch's first bytes, and the write puts them before the base's last
ones. -/
theorem overlayIsOneMemoryWrite : Obligations.OverlayIsOneMemoryWrite := by
  intro m base patch size hs1 hpatch hbase
  have hread : memRead m (.src .s1) 0 size = some (patch.take size) := by
    rw [memRead_of_some (sp := .src .s1) hs1 (by omega), Nat.zero_add, slice_zero_eq_take]
  refine ⟨patch.take size, hread, ?_⟩
  rw [memWrite_zero, List.length_take_of_le hpatch, overlay_eq_take_append_drop]

/-! ### Padding (R74, R75) -/

theorem padTo_take_length (buf : ByteBuffer) (target : Nat) (v : Byte) :
    (padTo buf target v).take buf.length = buf := List.take_left

theorem padTo_own_length (buf : ByteBuffer) (v : Byte) : padTo buf buf.length v = buf := by
  rw [padTo, Nat.sub_self]
  exact List.append_nil buf

/-- Two runs of the fill byte, one after the other, are one run. -/
theorem padTo_padTo {buf : ByteBuffer} {t1 t2 : Nat} (h1 : buf.length ≤ t1) (h2 : t1 ≤ t2)
    (v : Byte) : padTo (padTo buf t1 v) t2 v = padTo buf t2 v := by
  have hruns : (t1 - buf.length) + (t2 - t1) = t2 - buf.length := by omega
  rw [padTo, padTo_length h1, padTo, padTo, rep, rep, rep, List.append_assoc,
    List.replicate_append_replicate, hruns]

/-- Settles O52: the padded buffer is the buffer and then a run of the fill byte. -/
theorem padPropertiesHold : Obligations.PadPropertiesHold := by
  refine fun buf t1 v h1 => ⟨fun heq => ?own, padTo_length h1 v, padTo_take_length buf t1 v,
    fun i hpast hi => padTo_getElem?_of_le hpast hi v, fun t2 h2 => padTo_padTo h1 h2 v⟩
  case own => rw [heq, padTo_own_length]

end Sys2Proof.Machine
end

section
/-!
PROOFS. What a step can do, and what every step keeps (10_state.md sections 2, 3 and 7). `EventEffect`
lists once what each kind of event does when it is not refused; the frame of SEED, SIZE, FILL, the
results and the source slots, and the invariant, are read off it.
-/

namespace Sys2Proof.Machine

/-! ### What an event can do -/

/-- The states an event can lead to, one constructor per kind of event: what R36 to R39, R45, R47 and R92
say of each. -/
inductive EventEffect (s : State) : Event → State → Prop
  | load (n : SrcSlot) (b : ByteBuffer) (hfits : b.length ≤ s.cfg.bufmax) :
      EventEffect s (.action (.load n b)) { s with mem := setSrc s.mem n (some b) }
  | save (n : DstSlot) (b : ByteBuffer) : EventEffect s (.action (.save n)) (reply (.buffer b) s)
  | read (r : RegName) (w : Word) : EventEffect s (.action (.rd r)) (reply (.word w) s)
  | command (w : Word) (i : Instr) (t : State) (hw : decode w = .ok i) (hexec : exec i s = .next t) :
      EventEffect s (.action (.wr .cmd w)) t
  | illegal (w : Word) : EventEffect s (.action (.wr .cmd w)) (raise .illegalCommand s)
  | writeStatus (v : Word) : EventEffect s (.action (.wr .status v)) s
  | writeSeed (v : Word) : EventEffect s (.action (.wr .seed v)) { s with seed := v }
  | writeSize (v : Word) : EventEffect s (.action (.wr .size v)) { s with size := v }
  | writeFill (v : Word) :
      EventEffect s (.action (.wr .fill v)) { s with fill := v.extractLsb' 0 8 }
  | writeCrc (v : Word) : EventEffect s (.action (.wr .crc v)) s
  | reset : EventEffect s .reset (resetHardware s)

theorem writeReg_effect {r : RegName} {v : Word} {s t : State} (h : writeReg r v s = .next t) :
    EventEffect s (.action (.wr r v)) t := by
  cases r with
  | cmd =>
    rw [writeReg_cmd] at h
    cases hw : decode v with
    | ok i => exact .command v i t hw (runCommand_ok hw s ▸ h)
    | error e =>
      rw [runCommand_error hw] at h
      cases h
      exact .illegal v
  | status => cases h; exact .writeStatus v
  | seed => cases h; exact .writeSeed v
  | size => cases h; exact .writeSize v
  | fill => cases h; exact .writeFill v
  | crc => cases h; exact .writeCrc v

theorem perform_effect {e : Event} {s t : State} (h : perform e s = .next t) : EventEffect s e t := by
  match e with
  | .reset =>
    rw [(perform_reset_next_iff s t).1 h]
    exact .reset
  | .action (.load n b) =>
    obtain ⟨hfits, rfl⟩ := loadSlot_next h
    exact .load n b hfits
  | .action (.save n) =>
    obtain ⟨b, -, rfl⟩ := saveSlot_next h
    exact .save n b
  | .action (.wr r v) => exact writeReg_effect h
  | .action (.rd r) =>
    obtain ⟨w, -, rfl⟩ := readReg_next h
    exact .read r w

/-- All that a step can do: nothing with an empty list, or its next event with that taken off (R100). -/
theorem step_effect {s t : State} (h : step s = .next t) :
    (s.pending = [] ∧ t = s) ∨
      ∃ e rest, s.pending = e :: rest ∧ EventEffect { s with pending := rest } e t := by
  cases hp : s.pending with
  | nil =>
    rw [step_of_nil hp] at h
    cases h
    exact .inl ⟨rfl, rfl⟩
  | cons e rest =>
    rw [step_of_cons hp] at h
    exact .inr ⟨e, rest, rfl, perform_effect h⟩

theorem step_effect_of_cons {s t : State} {e : Event} {rest : List Event}
    (hp : s.pending = e :: rest) (h : step s = .next t) :
    EventEffect { s with pending := rest } e t :=
  perform_effect (step_of_cons hp ▸ h)

/-! ### The registers of the parameters, and the model's own fields (R19 to R21, R46) -/

/-- No command changes SEED, SIZE, FILL, the configuration or the events to come. -/
theorem exec_frame {i : Instr} {s t : State} (h : exec i s = .next t) :
    t.cfg = s.cfg ∧ t.pending = s.pending ∧ t.seed = s.seed ∧ t.size = s.size ∧ t.fill = s.fill := by
  rcases exec_cases i s t h with ⟨e, -, rfl⟩ | ⟨r, -, rfl⟩ <;> exact ⟨rfl, rfl, rfl, rfl, rfl⟩

theorem EventEffect.cfg_pending {s t : State} {e : Event} (h : EventEffect s e t) :
    t.cfg = s.cfg ∧ t.pending = s.pending := by
  cases h with
  | command w i t hw hexec =>
    obtain ⟨hcfg, hpending, -⟩ := exec_frame hexec
    exact ⟨hcfg, hpending⟩
  | _ => exact ⟨rfl, rfl⟩

theorem EventEffect.seed {s t : State} {e : Event} (h : EventEffect s e t)
    (hwrite : ∀ v, e ≠ .action (.wr .seed v)) (hreset : e ≠ .reset) : t.seed = s.seed := by
  cases h with
  | command w i t hw hexec =>
    obtain ⟨-, -, hseed, -, -⟩ := exec_frame hexec
    exact hseed
  | writeSeed v => exact absurd rfl (hwrite v)
  | reset => exact absurd rfl hreset
  | _ => rfl

theorem EventEffect.size {s t : State} {e : Event} (h : EventEffect s e t)
    (hwrite : ∀ v, e ≠ .action (.wr .size v)) (hreset : e ≠ .reset) : t.size = s.size := by
  cases h with
  | command w i t hw hexec =>
    obtain ⟨-, -, -, hsize, -⟩ := exec_frame hexec
    exact hsize
  | writeSize v => exact absurd rfl (hwrite v)
  | reset => exact absurd rfl hreset
  | _ => rfl

theorem EventEffect.fill {s t : State} {e : Event} (h : EventEffect s e t)
    (hwrite : ∀ v, e ≠ .action (.wr .fill v)) (hreset : e ≠ .reset) : t.fill = s.fill := by
  cases h with
  | command w i t hw hexec =>
    obtain ⟨-, -, -, -, hfill⟩ := exec_frame hexec
    exact hfill
  | writeFill v => exact absurd rfl (hwrite v)
  | reset => exact absurd rfl hreset
  | _ => rfl

/-- Settles O55: of the effects of an event, only its own write and a reset touch such a register. -/
theorem parametersChangeOnlyByTheirWrite : Obligations.ParametersChangeOnlyByTheirWrite := by
  intro s t e rest hp h
  have heffect := step_effect_of_cons hp h
  obtain ⟨hcfg, hpending⟩ := heffect.cfg_pending
  exact ⟨hcfg, hpending, heffect.seed, heffect.size, heffect.fill⟩

/-! ### The results and the source slots (R14, R15, R22) -/

theorem EventEffect.results {s t : State} {e : Event} (h : EventEffect s e t)
    (hcommand : ∀ w, e ≠ .action (.wr .cmd w)) (hreset : e ≠ .reset) :
    t.mem.d0 = s.mem.d0 ∧ t.mem.d1 = s.mem.d1 ∧ t.crc = s.crc ∧ t.code = s.code := by
  cases h with
  | load n b => exact ⟨setSrc_d0 s.mem n (some b), setSrc_d1 s.mem n (some b), rfl, rfl⟩
  | command w | illegal w => exact absurd rfl (hcommand w)
  | reset => exact absurd rfl hreset
  | _ => exact ⟨rfl, rfl, rfl, rfl⟩

/-- Settles O56: no other effect of an event touches a destination slot, CRC or CODE. -/
theorem resultsChangeOnlyByCommandOrReset : Obligations.ResultsChangeOnlyByCommandOrReset :=
  fun _ _ _ _ hp h => (step_effect_of_cons hp h).results

/-- A command leaves a source slot alone, or has succeeded, reads it and has emptied it (R46, R48). -/
theorem exec_srcSlot {i : Instr} {s t : State} (h : exec i s = .next t) (n : SrcSlot) :
    srcSlot t.mem n = srcSlot s.mem n ∨
      (n ∈ sourceSlots i ∧ t.code = 0#4 ∧ srcSlot t.mem n = none) := by
  rcases exec_cases i s t h with ⟨e, -, rfl⟩ | ⟨r, -, rfl⟩
  · exact .inl rfl
  · rw [srcSlot_commit]
    split
    case isTrue hn => exact .inr ⟨hn, rfl, rfl⟩
    case isFalse => exact .inl rfl

/-- Settles O57: a LOAD changes its own slot alone, a command those it empties, a reset all. -/
theorem sourceSlotChangesOnlyByLoadOrEmptying :
    Obligations.SourceSlotChangesOnlyByLoadOrEmptying := by
  intro s t n h
  rcases step_effect h with ⟨-, rfl⟩ | ⟨e, rest, hp, heffect⟩
  · exact .inl rfl
  · cases heffect with
    | load k b =>
      by_cases hk : n = k
      · subst hk
        exact .inr (.inl ⟨b, rest, hp, srcSlot_setSrc_same s.mem n (some b)⟩)
      · exact .inl (srcSlot_setSrc_other s.mem k n (some b) hk)
    | command w i t hw hexec =>
      rcases exec_srcSlot hexec n with hkept | ⟨hn, hcode, hnone⟩
      · exact .inl hkept
      · exact .inr (.inr (.inl ⟨w, i, rest, hp, hw, hn, hcode, hnone⟩))
    | reset => exact .inr (.inr (.inr ⟨rest, hp, srcSlot_empty n⟩))
    | _ => exact .inl rfl

/-! ### The invariant (10_state.md section 7) -/

theorem stateWf_iff (s : State) : stateWf s = true ↔
    s.cfg.wf = true ∧ s.mem.wf s.cfg.bufmax = true ∧ codeLegal s.code = true := by
  rw [stateWf, Bool.and_eq_true, Bool.and_eq_true, and_assoc]

/-- R5: a bank is no longer than a slot can hold. -/
theorem cap_le_bufmax {c : Config} (h : c.wf = true) : c.cap ≤ c.bufmax := by
  simp only [Config.wf, Bool.and_eq_true, decide_eq_true_eq] at h
  obtain ⟨⟨-, hcap⟩, -⟩ := h
  exact hcap

theorem length_le_of_srcSlot {s : State} (h : stateWf s = true) {n : SrcSlot} {b : ByteBuffer}
    (hb : srcSlot s.mem n = some b) : b.length ≤ s.cfg.bufmax := by
  obtain ⟨-, hmem, -⟩ := (stateWf_iff s).1 h
  obtain ⟨hsrc, -⟩ := (memory_wf_iff _ _).1 hmem
  have hn := hsrc n
  rwa [hb, slotWf_some, decide_eq_true_eq] at hn

theorem slotWf_of_length_le (n : Nat) {v : Option ByteBuffer} (h : (v.getD []).length ≤ n) :
    slotWf n v = true := by
  cases v with
  | none => rfl
  | some b => exact decide_eq_true h

/-- No result of a command is longer than BUFMAX: by its check, or because its operands are not (R83). -/
theorem results_fit {i : Instr} {s : State} {r : Results} (hs : stateWf s = true)
    (h : resultsOf i s = .ok r) :
    (r.d0.getD []).length ≤ s.cfg.bufmax ∧ (r.d1.getD []).length ≤ s.cfg.bufmax := by
  have hmax {b : ByteBuffer} (hb : s.mem.s0 = some b) : b.length ≤ s.cfg.bufmax :=
    length_le_of_srcSlot hs (n := .s0) hb
  cases i with
  | cksum =>
    obtain ⟨data, -, rfl⟩ := (cksumResults_ok_iff s r).1 h
    exact ⟨Nat.zero_le _, Nat.zero_le _⟩
  | esplit =>
    obtain ⟨buf, hbuf, rfl⟩ := (esplitResults_ok_iff s r).1 h
    have hbuf := hmax hbuf
    simp only [Option.getD_some, equalSplit_fst_length, equalSplit_snd_length, half]
    omega
  | bdeint =>
    obtain ⟨buf, hbuf, rfl⟩ := (bdeintResults_ok_iff s r).1 h
    have hbuf := hmax hbuf
    simp only [Option.getD_some, byteDeinterleave_length]
    omega
  | wdeint =>
    obtain ⟨buf, hbuf, -, rfl⟩ := (wdeintResults_ok_iff s r).1 h
    have hbuf := hmax hbuf
    simp only [Option.getD_some, wordDeinterleave_length]
    omega
  | bflip =>
    obtain ⟨buf, hbuf, -, rfl⟩ := (bflipResults_ok_iff s r).1 h
    have hbuf := hmax hbuf
    simp only [Option.getD_some, Option.getD_none, List.length_nil, byteFlip_length]
    omega
  | bint2 =>
    obtain ⟨a, -, b, -, hab, hfits, rfl⟩ := (bint2Results_ok_iff s r).1 h
    exact ⟨(byteInterleave2_length hab).trans_le hfits, Nat.zero_le _⟩
  | bint4 =>
    obtain ⟨a, -, b, -, c, -, d, -, ⟨⟨hab, hbc⟩, hcd⟩, hfits, rfl⟩ :=
      (bint4Results_ok_iff s r).1 h
    exact ⟨(byteInterleave4_length hab hbc hcd).trans_le hfits, Nat.zero_le _⟩
  | swaph =>
    obtain ⟨buf, hbuf, rfl⟩ := (swaphResults_ok_iff s r).1 h
    exact ⟨(swapHalves_length buf).trans_le ((two_mul_half_le buf).trans (hmax hbuf)),
      Nat.zero_le _⟩
  | bcat =>
    obtain ⟨a, -, b, -, htotal, rfl⟩ := (bcatResults_ok_iff s r).1 h
    obtain ⟨hcfg, -, -⟩ := (stateWf_iff s).1 hs
    have hcap := cap_le_bufmax hcfg
    simp only [Option.getD_some, bankSplit_fst_length, bankSplit_snd_length]
    omega
  | wmerge =>
    obtain ⟨a, -, b, -, hab, heven, hfits, rfl⟩ := (wmergeResults_ok_iff s r).1 h
    exact ⟨(wordMerge_length_of_even hab heven).trans_le hfits, Nat.zero_le _⟩
  | patch =>
    obtain ⟨base, hbase, patch, -, hinPatch, hinBase, rfl⟩ := (patchResults_ok_iff s r).1 h
    exact ⟨(overlay_length hinPatch hinBase).trans_le (hmax hbase), Nat.zero_le _⟩
  | pad =>
    obtain ⟨buf, -, htarget, hfits, rfl⟩ := (padResults_ok_iff s r).1 h
    exact ⟨(padTo_length htarget s.fill).trans_le hfits, Nat.zero_le _⟩

theorem exec_mem_wf {i : Instr} {s t : State} (hs : stateWf s = true) (h : exec i s = .next t) :
    t.mem.wf s.cfg.bufmax = true := by
  obtain ⟨-, hmem, -⟩ := (stateWf_iff s).1 hs
  rcases exec_cases i s t h with ⟨e, -, rfl⟩ | ⟨r, hr, rfl⟩
  · exact hmem
  · obtain ⟨h0, h1⟩ := results_fit hs hr
    exact commit_wf _ r hmem (slotWf_of_length_le _ h0) (slotWf_of_length_le _ h1)

theorem exec_stateWf {i : Instr} {s t : State} (hs : stateWf s = true) (h : exec i s = .next t) :
    stateWf t = true := by
  obtain ⟨hcfg, -, -⟩ := (stateWf_iff s).1 hs
  obtain ⟨hsame, -⟩ := exec_frame h
  rw [stateWf_iff, hsame]
  exact ⟨hcfg, exec_mem_wf hs h, exec_codeLegal h⟩

theorem EventEffect.keeps_stateWf {s t : State} {e : Event} (h : EventEffect s e t)
    (hs : stateWf s = true) : stateWf t = true := by
  obtain ⟨hcfg, hmem, hcode⟩ := (stateWf_iff s).1 hs
  cases h with
  | load n b hfits =>
    exact (stateWf_iff _).2 ⟨hcfg, setSrc_wf n hmem (decide_eq_true hfits), hcode⟩
  | command w i t hw hexec => exact exec_stateWf hs hexec
  | illegal w => exact (stateWf_iff _).2 ⟨hcfg, hmem, rfl⟩
  | reset => exact (stateWf_iff _).2 ⟨hcfg, memory_empty_wf _, rfl⟩
  | _ => exact (stateWf_iff _).2 ⟨hcfg, hmem, hcode⟩

/-- Settles O53: the events to come are no part of the invariant, and every effect of an event keeps it. -/
theorem stepKeepsStateWellFormed : Obligations.StepKeepsStateWellFormed := by
  intro s t hs h
  rcases step_effect h with ⟨-, rfl⟩ | ⟨e, rest, -, heffect⟩
  · exact hs
  · exact heffect.keeps_stateWf hs

/-- Settles O54: memory after reset is empty and CODE is 0. -/
theorem resetStateIsWellFormed : Obligations.ResetStateIsWellFormed := by
  have hreset (c : Config) (hc : c.wf = true) : stateWf (State.resetWith c) = true :=
    (stateWf_iff _).2 ⟨hc, memory_empty_wf _, rfl⟩
  exact ⟨hreset Config.hardware (by decide), hreset⟩

end Sys2Proof.Machine
end

section
/-!
PROOFS. Refusals and runs (20_memory.md section 7, 70_reset_and_hazards.md R100). An event is refused
exactly where the host fails in its duty for it, so a step has a next state exactly where the duty is
kept, and so has a run, by induction over its steps.
-/

namespace Sys2Proof.Machine

/-! ### Refusals and the host's duty (R36, R37, R39) -/

theorem regValue_isSome (r : RegName) (s : State) :
    (regValue r s).isSome = (r != .crc || s.crc.isSome) := by
  cases r <;> rfl

theorem writeReg_total (r : RegName) (v : Word) (s : State) : ∃ t, writeReg r v s = .next t := by
  cases r with
  | cmd =>
    cases hw : decode v with
    | ok i =>
      obtain ⟨t, ht⟩ := exec_total i s
      exact ⟨t, (runCommand_ok hw s).trans ht⟩
    | error e => exact ⟨_, runCommand_error hw s⟩
  | status | seed | size | fill | crc => exact ⟨_, rfl⟩

/-- An event that keeps the host's duty is performed. -/
theorem perform_of_hostMay {s : State} {e : Event} (h : hostMay s e = true) :
    ∃ t, perform e s = .next t := by
  match e with
  | .reset => exact ⟨_, perform_reset s⟩
  | .action (.load n b) => exact ⟨_, loadSlot_of_le (of_decide_eq_true h) n⟩
  | .action (.save n) =>
    obtain ⟨b, hb⟩ := Option.isSome_iff_exists.1 h
    exact ⟨_, saveSlot_of_some hb⟩
  | .action (.wr r v) => exact writeReg_total r v s
  | .action (.rd r) =>
    obtain ⟨w, hw⟩ := Option.isSome_iff_exists.1 ((regValue_isSome r s).trans h)
    exact ⟨_, readReg_of_some hw⟩

/-- An event that fails the host's duty is refused: a LOAD beyond BUFMAX, a SAVE of an empty slot, or a
read of CRC without a value. -/
theorem perform_of_not_hostMay {s : State} {e : Event} (h : hostMay s e = false) :
    (∃ n b, e = .action (.load n b) ∧ s.cfg.bufmax < b.length ∧
      perform e s = .refused (.loadTooLong n)) ∨
    (∃ n, e = .action (.save n) ∧ dstSlot s.mem n = none ∧
      perform e s = .refused (.saveEmptySlot n)) ∨
    (e = .action (.rd .crc) ∧ s.crc = none ∧ perform e s = .refused .readCrcNoValue) := by
  match e with
  | .reset | .action (.wr _ _) => cases h
  | .action (.load n b) =>
    have hlong := Nat.not_le.1 (of_decide_eq_false h)
    exact .inl ⟨n, b, rfl, hlong, loadSlot_of_lt hlong n⟩
  | .action (.save n) =>
    have hnone : dstSlot s.mem n = none := by simpa [hostMay] using h
    exact .inr (.inl ⟨n, rfl, hnone, saveSlot_of_none hnone⟩)
  | .action (.rd .crc) =>
    have hnone : s.crc = none := by simpa [hostMay] using h
    exact .inr (.inr ⟨rfl, hnone, readReg_of_none hnone⟩)
  | .action (.rd .cmd) | .action (.rd .status) | .action (.rd .seed) | .action (.rd .size)
  | .action (.rd .fill) => cases h

/-- The duty for an event does not depend on the events to come. -/
theorem hostMay_pending (s : State) (rest : List Event) (e : Event) :
    hostMay { s with pending := rest } e = hostMay s e := by
  unfold hostMay
  rfl

/-- Settles O9: with an event next, the step is refused where the host fails in its duty for it. -/
theorem stepIsRefusedOnlyWhereTheRulesSay : Obligations.StepIsRefusedOnlyWhereTheRulesSay := by
  intro s
  cases hp : s.pending with
  | nil => exact .inl ⟨s, step_of_nil hp⟩
  | cons e rest =>
    rw [step_of_cons hp]
    cases hmay : hostMay { s with pending := rest } e with
    | true => exact .inl (perform_of_hostMay hmay)
    | false =>
      rcases perform_of_not_hostMay hmay with ⟨n, b, rfl, hlong, hrefused⟩ |
        ⟨n, rfl, hnone, hrefused⟩ | ⟨rfl, hnone, hrefused⟩
      · exact .inr (.inl ⟨n, b, rest, rfl, hlong, hrefused⟩)
      · exact .inr (.inr (.inl ⟨n, rest, rfl, hnone, hrefused⟩))
      · exact .inr (.inr (.inr ⟨rest, rfl, hnone, hrefused⟩))

theorem step_next_iff_hostMay {s : State} {e : Event} {rest : List Event}
    (hp : s.pending = e :: rest) : (∃ t, step s = .next t) ↔ hostMay s e = true := by
  rw [step_of_cons hp, ← hostMay_pending s rest e]
  refine ⟨fun ⟨t, ht⟩ => ?_, perform_of_hostMay⟩
  by_contra hmay
  rcases perform_of_not_hostMay (Bool.not_eq_true _ ▸ hmay) with ⟨n, b, -, -, hrefused⟩ |
    ⟨n, -, -, hrefused⟩ | ⟨-, -, hrefused⟩ <;> rw [hrefused] at ht <;> cases ht

/-- Settles O59: the conditions on the event are the host's duty for it, so the step answers a next
state; that it meets the invariant is O53. -/
theorem carefulHostIsNeverStuck : Obligations.CarefulHostIsNeverStuck := by
  intro s e rest hs hp hwf hsave hread
  have hmay : hostMay s e = true := by
    match e with
    | .reset | .action (.wr _ _) => rfl
    | .action (.load n b) => exact hwf
    | .action (.save n) => exact Option.isSome_iff_exists.2 (hsave n rfl)
    | .action (.rd .crc) => exact Option.isSome_iff_exists.2 (hread rfl)
    | .action (.rd .cmd) | .action (.rd .status) | .action (.rd .seed) | .action (.rd .size)
    | .action (.rd .fill) => rfl
  obtain ⟨t, ht⟩ := (step_next_iff_hostMay hp).2 hmay
  exact ⟨t, ht, stepKeepsStateWellFormed s t hs ht⟩

/-! ### Runs (R100) -/

theorem step_pending {s t : State} (h : step s = .next t) : t.pending = s.pending.tail := by
  rcases step_effect h with ⟨hp, rfl⟩ | ⟨e, rest, hp, heffect⟩
  · rw [hp, List.tail_nil]
  · obtain ⟨-, hpending⟩ := heffect.cfg_pending
    rw [hp, hpending, List.tail_cons]

/-- The first step of a run that is not refused. -/
theorem runFor_succ_next {k : Nat} {s t : State} (h : runFor (k + 1) s = .next t) :
    ∃ u, step s = .next u ∧ runFor k u = .next t := by
  cases hu : step s with
  | next u => exact ⟨u, rfl, runFor_succ_of_next hu ▸ h⟩
  | fault r => cases r
  | refused r =>
    rw [runFor_succ_of_refused hu] at h
    cases h

theorem runFor_pending {k : Nat} {s t : State} (h : runFor k s = .next t) :
    t.pending = s.pending.drop k := by
  induction k generalizing s with
  | zero =>
    cases h
    rfl
  | succ k ih =>
    obtain ⟨u, hu, hrest⟩ := runFor_succ_next h
    rw [ih hrest, step_pending hu, List.drop_tail]

theorem runFor_add {m k : Nat} {s t : State} (h : runFor m s = .next t) :
    runFor (m + k) s = runFor k t := by
  induction m generalizing s with
  | zero =>
    cases h
    rw [Nat.zero_add]
  | succ m ih =>
    obtain ⟨u, hu, hrest⟩ := runFor_succ_next h
    rw [Nat.succ_add, runFor_succ_of_next hu, ih hrest]

/-- An idle machine stays as it is (log 3). -/
theorem runFor_of_nil {s : State} (h : s.pending = []) (k : Nat) : runFor k s = .next s := by
  induction k with
  | zero => rfl
  | succ k ih => rw [runFor_succ_of_next (step_of_nil h), ih]

/-- A run of any length is not refused exactly where every event of it meets its duty: the induction over
the run that follows the duties. -/
theorem runFor_next_iff_keepsDuties (k : Nat) (s : State) :
    (∃ t, runFor k s = .next t) ↔ keepsDuties k s = true := by
  induction k generalizing s with
  | zero => exact ⟨fun _ => rfl, fun _ => ⟨s, rfl⟩⟩
  | succ k ih =>
    cases hp : s.pending with
    | nil =>
      have hidle : keepsDuties (k + 1) s = keepsDuties k s := by
        simp [keepsDuties, hp, step_of_nil hp]
      rw [hidle, runFor_succ_of_next (step_of_nil hp), ih]
    | cons e rest =>
      constructor
      · rintro ⟨t, ht⟩
        obtain ⟨u, hu, hrest⟩ := runFor_succ_next ht
        rw [keepsDuties_succ hp hu, (step_next_iff_hostMay hp).1 ⟨u, hu⟩, (ih u).1 ⟨t, hrest⟩]
        rfl
      · intro hduties
        have hmay : hostMay s e = true := by
          rw [keepsDuties, hp, Bool.and_eq_true] at hduties
          exact hduties.left
        obtain ⟨u, hu⟩ := (step_next_iff_hostMay hp).2 hmay
        rw [keepsDuties_succ hp hu, hmay, Bool.true_and] at hduties
        rw [runFor_succ_of_next hu]
        exact (ih u).2 hduties

/-- Settles O58: each step takes one event, so the run of all of them leaves none; and no event of it is
refused exactly where each meets its duty. -/
theorem runEndsWhenItsListDoes : Obligations.RunEndsWhenItsListDoes := by
  refine ⟨fun s t h => ?ended, fun s => runFor_next_iff_keepsDuties s.pending.length s⟩
  case ended =>
    have hnone : t.pending = [] := by rw [runFor_pending h, List.drop_length]
    exact ⟨hnone, fun hs => runFor_keeps stepKeepsStateWellFormed _ s t hs h,
      fun k => (runFor_add h).trans (runFor_of_nil hnone k)⟩

end Sys2Proof.Machine
end

section
/-!
PROOFS. The host's report line (20_memory.md R40). A decimal and a hex numeral are read back digit by
digit, by induction over the digits; the report's two numerals are then the length and the checksum, and
a CKSUM's report takes them from S0 and CRC.
-/

namespace Sys2Proof.Machine

/-! ### Decimal numerals -/

/-- One more decimal digit of a numeral that has been read as `acc`. -/
def readDecimal (acc : Nat) (c : Char) : Nat := 10 * acc + (c.toNat - 48)

/-- The character of a decimal digit, as `decimalDigits` writes it. -/
def decimalDigit (d : Nat) : Char := Char.ofNat (48 + d)

/-- The ten decimal digits: their range, their values, and that only 0's is `0`. -/
theorem decimalDigit_spec {d : Nat} (hd : d < 10) :
    ('0' ≤ decimalDigit d ∧ decimalDigit d ≤ '9') ∧ (decimalDigit d).toNat - 48 = d ∧
      (d ≠ 0 → decimalDigit d ≠ '0') := by
  revert d
  decide

theorem decimalDigits_of_lt {n : Nat} (h : n < 10) (fuel : Nat) :
    decimalDigits (fuel + 1) n = [decimalDigit n] := if_pos h

theorem decimalDigits_of_le {n : Nat} (h : 10 ≤ n) (fuel : Nat) :
    decimalDigits (fuel + 1) n = decimalDigits fuel (n / 10) ++ [decimalDigit (n % 10)] :=
  if_neg (Nat.not_lt.2 h)

/-- The numeral of a number below 10^fuel: its digits read back as the number. -/
theorem decimalDigits_read : ∀ (fuel n : Nat), n < 10 ^ fuel →
    (decimalDigits fuel n).foldl readDecimal 0 = n
  | 0, n, h => (Nat.lt_one_iff.1 h).symm
  | fuel + 1, n, h => by
    rcases Nat.lt_or_ge n 10 with hlt | hge
    · obtain ⟨-, hvalue, -⟩ := decimalDigit_spec hlt
      rw [decimalDigits_of_lt hlt, List.foldl_cons, List.foldl_nil, readDecimal, hvalue]
      exact Nat.zero_add n
    · obtain ⟨-, hvalue, -⟩ := decimalDigit_spec (Nat.mod_lt n (by decide : 10 > 0))
      have hfront := decimalDigits_read fuel (n / 10) (by rw [Nat.pow_succ] at h; omega)
      rw [decimalDigits_of_le hge, List.foldl_append, hfront, List.foldl_cons, List.foldl_nil,
        readDecimal, hvalue, Nat.div_add_mod]

theorem decimalDigits_mem : ∀ (fuel n : Nat), ∀ c ∈ decimalDigits fuel n, '0' ≤ c ∧ c ≤ '9'
  | 0, _, c, hc => by cases hc
  | fuel + 1, n, c, hc => by
    rcases Nat.lt_or_ge n 10 with hlt | hge
    · obtain ⟨hrange, -, -⟩ := decimalDigit_spec hlt
      rw [decimalDigits_of_lt hlt] at hc
      exact List.mem_singleton.1 hc ▸ hrange
    · obtain ⟨hrange, -, -⟩ := decimalDigit_spec (Nat.mod_lt n (by decide : 10 > 0))
      rw [decimalDigits_of_le hge] at hc
      rcases List.mem_append.1 hc with hfront | hlast
      · exact decimalDigits_mem fuel (n / 10) c hfront
      · exact List.mem_singleton.1 hlast ▸ hrange

theorem decimalDigits_ne_nil (fuel n : Nat) : decimalDigits (fuel + 1) n ≠ [] := by
  rcases Nat.lt_or_ge n 10 with hlt | hge
  · rw [decimalDigits_of_lt hlt]
    exact List.cons_ne_nil _ _
  · rw [decimalDigits_of_le hge]
    exact List.concat_ne_nil _ _

/-- A number other than 0 has no leading zero. -/
theorem decimalDigits_head : ∀ (fuel n : Nat), 1 ≤ n → n < 10 ^ fuel →
    (decimalDigits fuel n).head? ≠ some '0'
  | 0, n, hpos, h => by
    rw [Nat.pow_zero] at h
    omega
  | fuel + 1, n, hpos, h => by
    rcases Nat.lt_or_ge n 10 with hlt | hge
    · obtain ⟨-, -, hzero⟩ := decimalDigit_spec hlt
      rw [decimalDigits_of_lt hlt, List.head?_cons]
      exact fun heq => hzero (by omega) (Option.some.inj heq)
    · have hfront := decimalDigits_head fuel (n / 10) (by omega) (by rw [Nat.pow_succ] at h; omega)
      obtain _ | fuel := fuel
      · rw [Nat.zero_add, Nat.pow_one] at h
        omega
      · rw [decimalDigits_of_le hge, List.head?_append_of_ne_nil _ (decimalDigits_ne_nil fuel _)]
        exact hfront

/-- A numeral of more than one digit is of a number from 10 on. -/
theorem ten_le_of_one_lt_length {fuel n : Nat} (h : 1 < (decimalDigits (fuel + 1) n).length) :
    10 ≤ n := by
  by_contra hlt
  rw [decimalDigits_of_lt (Nat.not_le.1 hlt)] at h
  exact absurd h (lt_irrefl 1)

/-! ### Hexadecimal numerals -/

/-- One more hex digit of a numeral that has been read as `acc`: `0` to `9`, then `a` to `f`. -/
def readHex (acc : Nat) (c : Char) : Nat :=
  16 * acc + (if c.toNat < 58 then c.toNat - 48 else c.toNat - 87)

theorem hexDigit_mod (n : Nat) : hexDigit (n % 16) = hexDigit n := by
  rw [hexDigit, hexDigit, Nat.mod_mod]

/-- The sixteen hex digits: their range and their values. -/
theorem hexDigit_spec_of_lt {d : Nat} (hd : d < 16) :
    (('0' ≤ hexDigit d ∧ hexDigit d ≤ '9') ∨ ('a' ≤ hexDigit d ∧ hexDigit d ≤ 'f')) ∧
      readHex 0 (hexDigit d) = d := by
  revert d
  decide

theorem hexDigit_range (n : Nat) :
    ('0' ≤ hexDigit n ∧ hexDigit n ≤ '9') ∨ ('a' ≤ hexDigit n ∧ hexDigit n ≤ 'f') := by
  obtain ⟨hrange, -⟩ := hexDigit_spec_of_lt (Nat.mod_lt n (by decide : 16 > 0))
  exact hexDigit_mod n ▸ hrange

theorem readHex_hexDigit (acc n : Nat) : readHex acc (hexDigit n) = 16 * acc + n % 16 := by
  obtain ⟨-, hvalue⟩ := hexDigit_spec_of_lt (Nat.mod_lt n (by decide : 16 > 0))
  rw [hexDigit_mod, readHex, Nat.mul_zero, Nat.zero_add] at hvalue
  rw [readHex, hvalue]

theorem hexDigits_length (k n : Nat) : (hexDigits k n).length = k := by
  induction k with
  | zero => rfl
  | succ k ih => rw [hexDigits, List.length_cons, ih]

theorem hexDigits_mem (k n : Nat) :
    ∀ c ∈ hexDigits k n, ('0' ≤ c ∧ c ≤ '9') ∨ ('a' ≤ c ∧ c ≤ 'f') := by
  induction k with
  | zero => exact fun c hc => by cases hc
  | succ k ih =>
    intro c hc
    rcases List.mem_cons.1 hc with rfl | hrest
    · exact hexDigit_range _
    · exact ih c hrest

/-- Reading `k` hex digits of `n` after `acc` puts them below it. -/
theorem hexDigits_read (k n acc : Nat) :
    (hexDigits k n).foldl readHex acc = acc * 16 ^ k + n % 16 ^ k := by
  induction k generalizing acc with
  | zero => rw [hexDigits, List.foldl_nil, Nat.pow_zero, Nat.mod_one, Nat.mul_one, Nat.add_zero]
  | succ k ih =>
    rw [hexDigits, List.foldl_cons, readHex_hexDigit, ih, Nat.pow_succ, Nat.mod_mul]
    ring

theorem hexDigits_read_word (w : Word) : (hexDigits 8 w.toNat).foldl readHex 0 = w.toNat := by
  have hlt : w.toNat < 16 ^ 8 := w.isLt
  rw [hexDigits_read, Nat.zero_mul, Nat.zero_add, Nat.mod_eq_of_lt hlt]

/-! ### The report (R40) -/

/-- Settles O60: the report's numerals read back as they were written, and a CKSUM's report is made of
S0's length and of the checksum that its commit puts into CRC. -/
theorem reportLineReadsBack : Obligations.ReportLineReadsBack := by
  refine ⟨fun path len crc hlen => ?line, fun path s =>
    ⟨fun data hdata => ?found, fun hnone => ?none⟩⟩
  case line =>
    have hdigits : len < 10 ^ 10 := hlen.trans (by decide)
    have hhead (hlong : 1 < (decimalDigits 10 len).length) :
        (decimalDigits 10 len).head? ≠ some '0' :=
      decimalDigits_head 10 len (le_trans (by decide) (ten_le_of_one_lt_length hlong)) hdigits
    exact ⟨decimalDigits 10 len, hexDigits 8 crc.toNat, rfl, decimalDigits_mem 10 len,
      decimalDigits_ne_nil 9 len, hhead, decimalDigits_read 10 len hdigits,
      hexDigits_length 8 crc.toNat, hexDigits_mem 8 crc.toNat, hexDigits_read_word crc⟩
  case found =>
    exact ⟨_, crcUpdate s.seed data, exec_cksum_of_some hdata, rfl, rfl,
      reportOfCksum_of_some hdata path⟩
  case none => exact reportOfCksum_of_none hnone path

end Sys2Proof.Machine
end
